-- ==== Sys2Proof/Word.lean ====
section
/-! DEFINITION. The word types of the core and the fixed sizes of 00_scope.md R6. -/

namespace Sys2Proof

/-- A memory cell, a register, a timer: `u8` (00_scope.md R8). -/
abbrev Byte := BitVec 8

/-- An instruction word, `pc`, `I`, a stack entry: `u16` (00_scope.md R8). -/
abbrev Word := BitVec 16

/-- A register number, also a key number: a 4-bit index 0..15 (00_scope.md R15). -/
abbrev Reg := Fin 16

/-- `FLAG_REG` (00_scope.md R6, 10_state.md R22). -/
abbrev flagReg : Reg := 15

/-- The register numbers, which are also the key numbers, in ascending order. -/
def allRegs : List Reg := [0, 1, 2, 3, 4, 5, 6, 7, 8, 9, 10, 11, 12, 13, 14, 15]

/-- `MEM_SIZE` (00_scope.md R6): addresses 0x000..0xFFF exist. -/
abbrev memSize : Nat := 4096

/-- `GLYPH_BASE` (00_scope.md R6). -/
abbrev glyphBase : Nat := 0x050

/-- The size of the glyph table in bytes (00_scope.md R6). -/
abbrev glyphBytes : Nat := 80

/-- `PROGRAM_BASE` (00_scope.md R6), also the reset `pc`. -/
abbrev programBase : Nat := 0x200

/-- `MAX_PROGRAM` (00_scope.md R6). -/
abbrev maxProgram : Nat := 3584

end Sys2Proof
end

