-- ==== Sys2Proof/Config.lean ====
section
/-! DEFINITION. The named parameters a model takes (00_scope.md R7) as data, and the one free value of the
model, the random byte. The default VALUES of the parameters stand in Machine/Defaults.lean. -/

namespace Sys2Proof

/-- How a divided group's sub-key is read: GROUP0_KEY, GROUPE_KEY (00_scope.md R7, D2, D3). -/
inductive SubKey
  | lowByte
  | lowNibble
deriving DecidableEq, Repr

/-- PROTECT_LOW_MEMORY (00_scope.md R7, 20_memory.md R52, D9). -/
inductive LowProtect
  | none
  | glyphs
  | reserved
deriving DecidableEq, Repr

/-- DRAW_EDGE_MODE (00_scope.md R7, 43_display.md R173, D12). -/
inductive EdgeMode
  | fault
  | clip
  | wrap
deriving DecidableEq, Repr

/-- In which order the four bytes of a 32-bit snapshot cell lie. The spec asks a model that changes PIXEL_ON to
fix this order (43_display.md R175, D18). DESIGN CHOICE (log entry 10), safe: a parameter, so no claim may rest on
one of the two. -/
inductive CellOrder
  | highByteFirst
  | lowByteFirst
deriving DecidableEq, Repr

/-- The 80 bytes of GLYPH_TABLE (20_memory.md R53, D5). -/
abbrev GlyphTable := Vector Byte glyphBytes

/-- The named parameters of 00_scope.md R7, all but RNG (see `Config.randomByte`). `initialize` fixes them;
no step changes them. DESIGN CHOICE (log entry 2), safe: they stand in State, so that a claim about every state is a
claim about every value of them. -/
structure Params where
  group0Key  : SubKey
  groupEKey  : SubKey
  glyphTable : GlyphTable
  protectLow : LowProtect
  drawEdge   : EdgeMode
  pixelOn    : BitVec 32
  pixelOff   : BitVec 32
  cellOrder  : CellOrder
deriving DecidableEq, Repr

/-- The random source (00_scope.md R14, 10_state.md R34, D17): the byte that the k-th execution of random consumes.
A FREE VALUE: nothing in Lean can evaluate it or prove a value of it. DESIGN CHOICE (log entry 4), safe. -/
opaque Config.randomByte : Nat → Byte

end Sys2Proof
end

