-- ==== Sys2Proof/Machine/Defaults.lean ====
section
/-! DEFINITION. The default values of the named parameters (00_scope.md R7), the default glyph font (20_memory.md
R53), and what a memory cell holds after `initialize` (10_state.md R39). -/

namespace Sys2Proof.Machine

/-- The historical hexadecimal font (20_memory.md R53, marked there as general knowledge: G3).
UNVERIFIED (log entry 3), unsafe for claims about the pixels of a glyph. -/
def defaultGlyphs : GlyphTable :=
  #v[0xF0, 0x90, 0x90, 0x90, 0xF0,  0x20, 0x60, 0x20, 0x20, 0x70,
     0xF0, 0x10, 0xF0, 0x80, 0xF0,  0xF0, 0x10, 0xF0, 0x10, 0xF0,
     0x90, 0x90, 0xF0, 0x10, 0x10,  0xF0, 0x80, 0xF0, 0x10, 0xF0,
     0xF0, 0x80, 0xF0, 0x90, 0xF0,  0xF0, 0x10, 0x20, 0x40, 0x40,
     0xF0, 0x90, 0xF0, 0x90, 0xF0,  0xF0, 0x90, 0xF0, 0x10, 0xF0,
     0xF0, 0x90, 0xF0, 0x90, 0x90,  0xE0, 0x90, 0xE0, 0x90, 0xE0,
     0xF0, 0x80, 0x80, 0x80, 0xF0,  0xE0, 0x90, 0x90, 0x90, 0xE0,
     0xF0, 0x80, 0xF0, 0x80, 0xF0,  0xF0, 0x80, 0xF0, 0x80, 0x80]

/-- The defaults of 00_scope.md R7. The cell order is not observable with the default pixel values (43_display.md
R175); DESIGN CHOICE (log entry 10). -/
def defaultParams : Params where
  group0Key  := .lowByte
  groupEKey  := .lowByte
  glyphTable := defaultGlyphs
  protectLow := .none
  drawEdge   := .fault
  pixelOn    := 0xFFFFFFFF
  pixelOff   := 0x00000000
  cellOrder  := .highByteFirst

/-- What an address that memory does not list reads as: the contents `initialize` leaves (10_state.md R39, 70_reset_and_hazards.md
R250), the glyph table at 0x050..0x09F and zero elsewhere. -/
def unlisted (g : GlyphTable) (a : Nat) : Byte :=
  if glyphBase ≤ a then (g[a - glyphBase]?).getD 0 else 0

/-- The addresses PROTECT_LOW_MEMORY protects from store-bcd and store-regs (20_memory.md R52). -/
def protectedAddr (p : LowProtect) (a : Nat) : Bool :=
  match p with
  | .none => false
  | .glyphs => decide (0x050 ≤ a) && decide (a ≤ 0x09F)
  | .reserved => decide (a ≤ 0x1FF)

end Sys2Proof.Machine
end

