-- ==== Sys2Proof/Syntax.lean ====
section
/-! DEFINITION. The 34 instructions, one constructor per row of opcode_table.json, with the operand fields the
row's format has (30_encoding.md R71, R87). Bits a format ignores are no operands and are not kept. -/

namespace Sys2Proof

/-- An instruction with its operands: `x`, `y` register numbers, `kk` a byte, `nnn` a 12-bit address, `n` a row
count (00_scope.md R15). `n` is a count, so a Nat; WellFormed bounds it. -/
inductive Instr
  -- group 0x0
  | clearScreen
  | ret
  -- the one-handler groups 0x1 to 0x7
  | jump (nnn : BitVec 12)
  | call (nnn : BitVec 12)
  | skipEqImm (x : Reg) (kk : Byte)
  | skipNeImm (x : Reg) (kk : Byte)
  | skipEqReg (x y : Reg)
  | loadImm (x : Reg) (kk : Byte)
  | addImm (x : Reg) (kk : Byte)
  -- group 0x8
  | loadReg (x y : Reg)
  | orReg (x y : Reg)
  | andReg (x y : Reg)
  | xorReg (x y : Reg)
  | addReg (x y : Reg)
  | sub (x y : Reg)
  | shr (x : Reg)
  | subn (x y : Reg)
  | shl (x : Reg)
  -- the one-handler groups 0x9 to 0xD
  | skipNeReg (x y : Reg)
  | loadIndex (nnn : BitVec 12)
  | jumpOffset (nnn : BitVec 12)
  | random (x : Reg) (kk : Byte)
  | draw (x y : Reg) (n : Nat)
  -- group 0xE
  | skipKeyPressed (x : Reg)
  | skipKeyNotPressed (x : Reg)
  -- group 0xF
  | loadDelay (x : Reg)
  | waitKey (x : Reg)
  | setDelay (x : Reg)
  | setSound (x : Reg)
  | addIndex (x : Reg)
  | loadGlyph (x : Reg)
  | storeBcd (x : Reg)
  | storeRegs (x : Reg)
  | loadRegs (x : Reg)
deriving DecidableEq, Repr

namespace Instr

/-- The row's name in opcode_table.json (30_encoding.md R86, R87). -/
def mnemonic : Instr → String
  | .clearScreen => "clear-screen"
  | .ret => "return"
  | .jump _ => "jump"
  | .call _ => "call"
  | .skipEqImm _ _ => "skip-eq-imm"
  | .skipNeImm _ _ => "skip-ne-imm"
  | .skipEqReg _ _ => "skip-eq-reg"
  | .loadImm _ _ => "load-imm"
  | .addImm _ _ => "add-imm"
  | .loadReg _ _ => "load-reg"
  | .orReg _ _ => "or"
  | .andReg _ _ => "and"
  | .xorReg _ _ => "xor"
  | .addReg _ _ => "add-reg"
  | .sub _ _ => "sub"
  | .shr _ => "shr"
  | .subn _ _ => "subn"
  | .shl _ => "shl"
  | .skipNeReg _ _ => "skip-ne-reg"
  | .loadIndex _ => "load-index"
  | .jumpOffset _ => "jump-offset"
  | .random _ _ => "random"
  | .draw _ _ _ => "draw"
  | .skipKeyPressed _ => "skip-key-pressed"
  | .skipKeyNotPressed _ => "skip-key-not-pressed"
  | .loadDelay _ => "load-delay"
  | .waitKey _ => "wait-key"
  | .setDelay _ => "set-delay"
  | .setSound _ => "set-sound"
  | .addIndex _ => "add-index"
  | .loadGlyph _ => "load-glyph"
  | .storeBcd _ => "store-bcd"
  | .storeRegs _ => "store-regs"
  | .loadRegs _ => "load-regs"

end Instr
end Sys2Proof
end

