-- ==== Sys2Proof/WellFormed.lean ====
section
/-! DEFINITION. Which instructions have an encoding. Register numbers, `kk` and `nnn` cannot be out of range by their
types (00_scope.md R15); the one operand held as a plain count, draw's `n`, is checked here. -/

namespace Sys2Proof

/-- The row count of draw is the low nibble, 0..15 (00_scope.md R15, 43_display.md R172). -/
def rowCountOk (n : Nat) : Bool := decide (n ≤ 15)

/-- Every operand fits the field its format gives it (30_encoding.md R71). -/
def Instr.wf : Instr → Bool
  | .draw _ _ n => rowCountOk n
  | .clearScreen | .ret | .jump _ | .call _ | .skipEqImm _ _ | .skipNeImm _ _ | .skipEqReg _ _
  | .loadImm _ _ | .addImm _ _ | .loadReg _ _ | .orReg _ _ | .andReg _ _ | .xorReg _ _ | .addReg _ _
  | .sub _ _ | .shr _ | .subn _ _ | .shl _ | .skipNeReg _ _ | .loadIndex _ | .jumpOffset _ | .random _ _
  | .skipKeyPressed _ | .skipKeyNotPressed _ | .loadDelay _ | .waitKey _ | .setDelay _ | .setSound _
  | .addIndex _ | .loadGlyph _ | .storeBcd _ | .storeRegs _ | .loadRegs _ => true

end Sys2Proof
end

