-- ==== Sys2Proof/Decode.lean ====
section
/-! DEFINITION. The opcode map (30_encoding.md R70 to R81, R87): field extraction, the two-level decoder, the encoder,
and the map as a table of rows. The bit patterns are the historical encoding, which the spec itself supplies from
general knowledge (G1, G2, D1): UNVERIFIED (log entry 1), unsafe. -/

namespace Sys2Proof

/-! ### Fields (00_scope.md R9, R15; 30_encoding.md R71, R72) -/

/-- `w[15:12]`, the primary group. -/
def groupOf (w : Word) : Nat := w.toNat / 4096

/-- `w[11:8]`. -/
def xField (w : Word) : Reg := ⟨w.toNat / 256 % 16, Nat.mod_lt _ (by decide)⟩

/-- `w[7:4]`. -/
def yField (w : Word) : Reg := ⟨w.toNat / 16 % 16, Nat.mod_lt _ (by decide)⟩

/-- `n = w[3:0]`, the low nibble. -/
def lowNibble (w : Word) : Nat := w.toNat % 16

/-- `w[7:0]`, the low byte, as a sub-key. -/
def lowByte (w : Word) : Nat := w.toNat % 256

/-- `kk = w[7:0]`. -/
def kkField (w : Word) : Byte := BitVec.ofNat 8 w.toNat

/-- `nnn = w[11:0]`. -/
def nnnField (w : Word) : BitVec 12 := BitVec.ofNat 12 w.toNat

/-! ### Decode -/

/-- Why bytes are no instruction. `unknownInstruction`: the word is illegal (30_encoding.md R79). `truncated`: fewer than two
bytes were given; the core's fetch always gives two (30_encoding.md R70), so only a caller outside the machine sees it. -/
inductive DecodeError
  | unknownInstruction (w : Word)
  | truncated
deriving DecidableEq, Repr

/-- Group 0x0 (30_encoding.md R75, R80). -/
def decodeGroup0 (key0 : SubKey) (w : Word) : Except DecodeError Instr :=
  if lowByte w = 0xE0 then .ok .clearScreen
  else if lowByte w = 0xEE then .ok .ret
  else if key0 = .lowNibble ∧ lowNibble w = 0x0 then .ok .clearScreen
  else if key0 = .lowNibble ∧ lowNibble w = 0xE then .ok .ret
  else .error (.unknownInstruction w)

/-- Group 0x8 (30_encoding.md R76). -/
def decodeGroup8 (w : Word) : Except DecodeError Instr :=
  match lowNibble w with
  | 0x0 => .ok (.loadReg (xField w) (yField w))
  | 0x1 => .ok (.orReg (xField w) (yField w))
  | 0x2 => .ok (.andReg (xField w) (yField w))
  | 0x3 => .ok (.xorReg (xField w) (yField w))
  | 0x4 => .ok (.addReg (xField w) (yField w))
  | 0x5 => .ok (.sub (xField w) (yField w))
  | 0x6 => .ok (.shr (xField w))
  | 0x7 => .ok (.subn (xField w) (yField w))
  | 0xE => .ok (.shl (xField w))
  | _ => .error (.unknownInstruction w)

/-- Group 0xE (30_encoding.md R77). -/
def decodeGroupE (keyE : SubKey) (w : Word) : Except DecodeError Instr :=
  if lowByte w = 0x9E then .ok (.skipKeyPressed (xField w))
  else if lowByte w = 0xA1 then .ok (.skipKeyNotPressed (xField w))
  else if keyE = .lowNibble ∧ lowNibble w = 0xE then .ok (.skipKeyPressed (xField w))
  else if keyE = .lowNibble ∧ lowNibble w = 0x1 then .ok (.skipKeyNotPressed (xField w))
  else .error (.unknownInstruction w)

/-- Group 0xF (30_encoding.md R78). -/
def decodeGroupF (w : Word) : Except DecodeError Instr :=
  match lowByte w with
  | 0x07 => .ok (.loadDelay (xField w))
  | 0x0A => .ok (.waitKey (xField w))
  | 0x15 => .ok (.setDelay (xField w))
  | 0x18 => .ok (.setSound (xField w))
  | 0x1E => .ok (.addIndex (xField w))
  | 0x29 => .ok (.loadGlyph (xField w))
  | 0x33 => .ok (.storeBcd (xField w))
  | 0x55 => .ok (.storeRegs (xField w))
  | 0x65 => .ok (.loadRegs (xField w))
  | _ => .error (.unknownInstruction w)

/-- The decoder (30_encoding.md R73, R74, R81): the top nibble selects the group, groups 0x0, 0x8, 0xE and 0xF look
further. It depends on the word and the two key parameters only. A 16-bit word's group is below 16, so the last arm is
group 0xF. -/
def decode (key0 keyE : SubKey) (w : Word) : Except DecodeError Instr :=
  match groupOf w with
  | 0x0 => decodeGroup0 key0 w
  | 0x1 => .ok (.jump (nnnField w))
  | 0x2 => .ok (.call (nnnField w))
  | 0x3 => .ok (.skipEqImm (xField w) (kkField w))
  | 0x4 => .ok (.skipNeImm (xField w) (kkField w))
  | 0x5 => .ok (.skipEqReg (xField w) (yField w))
  | 0x6 => .ok (.loadImm (xField w) (kkField w))
  | 0x7 => .ok (.addImm (xField w) (kkField w))
  | 0x8 => decodeGroup8 w
  | 0x9 => .ok (.skipNeReg (xField w) (yField w))
  | 0xA => .ok (.loadIndex (nnnField w))
  | 0xB => .ok (.jumpOffset (nnnField w))
  | 0xC => .ok (.random (xField w) (kkField w))
  | 0xD => .ok (.draw (xField w) (yField w) (lowNibble w))
  | 0xE => decodeGroupE keyE w
  | _ => decodeGroupF w

/-- Two bytes as one word, the byte at the lower address first and high (20_memory.md R54). -/
def wordOfBytes (hi lo : Byte) : Word := BitVec.ofNat 16 (hi.toNat * 256 + lo.toNat)

/-- The high byte of a word, the one at the lower address (20_memory.md R54). -/
def highByte (w : Word) : Byte := BitVec.ofNat 8 (w.toNat / 256)

/-- The low byte of a word, the one at the higher address (20_memory.md R54). -/
def lowByteOf (w : Word) : Byte := BitVec.ofNat 8 w.toNat

/-- The decoder on any bytes: the first instruction and the rest (30_encoding.md R70). -/
def decodeBytes (key0 keyE : SubKey) : List Byte → Except DecodeError (Instr × List Byte)
  | hi :: lo :: rest =>
    match decode key0 keyE (wordOfBytes hi lo) with
    | .ok i => .ok (i, rest)
    | .error e => .error e
  | _ => .error .truncated

/-! ### Encode (30_encoding.md R71, R87). Ignored bits are encoded as zero. -/

/-- A word from its four nibbles' weights: group, then the 12-bit rest. -/
def wordOf (group rest : Nat) : Word := BitVec.ofNat 16 (group * 4096 + rest)

/-- Formats N and A: the group and a 12-bit value. -/
def formatA (group : Nat) (nnn : BitVec 12) : Word := wordOf group nnn.toNat

/-- Format XK: a register and a byte. -/
def formatXK (group : Nat) (x : Reg) (kk : Byte) : Word := wordOf group (x.val * 256 + kk.toNat)

/-- Formats XY, XYS and XYN: two registers and the low nibble. -/
def formatXY (group : Nat) (x y : Reg) (low : Nat) : Word := wordOf group (x.val * 256 + y.val * 16 + low)

/-- Format XS: a register and a sub-key byte. -/
def formatXS (group : Nat) (x : Reg) (key : Nat) : Word := wordOf group (x.val * 256 + key)

/-- The instruction's word. -/
def encode : Instr → Word
  | .clearScreen => wordOf 0x0 0xE0
  | .ret => wordOf 0x0 0xEE
  | .jump nnn => formatA 0x1 nnn
  | .call nnn => formatA 0x2 nnn
  | .skipEqImm x kk => formatXK 0x3 x kk
  | .skipNeImm x kk => formatXK 0x4 x kk
  | .skipEqReg x y => formatXY 0x5 x y 0x0
  | .loadImm x kk => formatXK 0x6 x kk
  | .addImm x kk => formatXK 0x7 x kk
  | .loadReg x y => formatXY 0x8 x y 0x0
  | .orReg x y => formatXY 0x8 x y 0x1
  | .andReg x y => formatXY 0x8 x y 0x2
  | .xorReg x y => formatXY 0x8 x y 0x3
  | .addReg x y => formatXY 0x8 x y 0x4
  | .sub x y => formatXY 0x8 x y 0x5
  | .shr x => formatXY 0x8 x 0 0x6
  | .subn x y => formatXY 0x8 x y 0x7
  | .shl x => formatXY 0x8 x 0 0xE
  | .skipNeReg x y => formatXY 0x9 x y 0x0
  | .loadIndex nnn => formatA 0xA nnn
  | .jumpOffset nnn => formatA 0xB nnn
  | .random x kk => formatXK 0xC x kk
  | .draw x y n => formatXY 0xD x y n
  | .skipKeyPressed x => formatXS 0xE x 0x9E
  | .skipKeyNotPressed x => formatXS 0xE x 0xA1
  | .loadDelay x => formatXS 0xF x 0x07
  | .waitKey x => formatXS 0xF x 0x0A
  | .setDelay x => formatXS 0xF x 0x15
  | .setSound x => formatXS 0xF x 0x18
  | .addIndex x => formatXS 0xF x 0x1E
  | .loadGlyph x => formatXS 0xF x 0x29
  | .storeBcd x => formatXS 0xF x 0x33
  | .storeRegs x => formatXS 0xF x 0x55
  | .loadRegs x => formatXS 0xF x 0x65

/-- The two bytes of an instruction as memory holds them (20_memory.md R54). -/
def encodeBytes (i : Instr) : List Byte := [highByte (encode i), lowByteOf (encode i)]

/-! ### The opcode map as a table (30_encoding.md R87) -/

/-- One row of the map: a word `w` selects it when `w AND mask = pattern`. -/
structure OpRow where
  mnemonic : String
  mask     : Word
  pattern  : Word
deriving DecidableEq, Repr

/-- 30_encoding.md R87: "A word `w` selects a row when `w AND mask = match`". -/
def OpRow.selects (r : OpRow) (w : Word) : Bool := (w &&& r.mask) == r.pattern

/-- The rows of groups 0x0 to 0x7. -/
def opcodeRowsLow : List OpRow :=
  [⟨"clear-screen", 0xF0FF, 0x00E0⟩, ⟨"return", 0xF0FF, 0x00EE⟩, ⟨"jump", 0xF000, 0x1000⟩,
   ⟨"call", 0xF000, 0x2000⟩, ⟨"skip-eq-imm", 0xF000, 0x3000⟩, ⟨"skip-ne-imm", 0xF000, 0x4000⟩,
   ⟨"skip-eq-reg", 0xF000, 0x5000⟩, ⟨"load-imm", 0xF000, 0x6000⟩, ⟨"add-imm", 0xF000, 0x7000⟩]

/-- The rows of group 0x8. -/
def opcodeRows8 : List OpRow :=
  [⟨"load-reg", 0xF00F, 0x8000⟩, ⟨"or", 0xF00F, 0x8001⟩, ⟨"and", 0xF00F, 0x8002⟩,
   ⟨"xor", 0xF00F, 0x8003⟩, ⟨"add-reg", 0xF00F, 0x8004⟩, ⟨"sub", 0xF00F, 0x8005⟩,
   ⟨"shr", 0xF00F, 0x8006⟩, ⟨"subn", 0xF00F, 0x8007⟩, ⟨"shl", 0xF00F, 0x800E⟩]

/-- The rows of groups 0x9 to 0xE. -/
def opcodeRowsHigh : List OpRow :=
  [⟨"skip-ne-reg", 0xF000, 0x9000⟩, ⟨"load-index", 0xF000, 0xA000⟩, ⟨"jump-offset", 0xF000, 0xB000⟩,
   ⟨"random", 0xF000, 0xC000⟩, ⟨"draw", 0xF000, 0xD000⟩, ⟨"skip-key-pressed", 0xF0FF, 0xE09E⟩,
   ⟨"skip-key-not-pressed", 0xF0FF, 0xE0A1⟩]

/-- The rows of group 0xF. -/
def opcodeRowsF : List OpRow :=
  [⟨"load-delay", 0xF0FF, 0xF007⟩, ⟨"wait-key", 0xF0FF, 0xF00A⟩, ⟨"set-delay", 0xF0FF, 0xF015⟩,
   ⟨"set-sound", 0xF0FF, 0xF018⟩, ⟨"add-index", 0xF0FF, 0xF01E⟩, ⟨"load-glyph", 0xF0FF, 0xF029⟩,
   ⟨"store-bcd", 0xF0FF, 0xF033⟩, ⟨"store-regs", 0xF0FF, 0xF055⟩, ⟨"load-regs", 0xF0FF, 0xF065⟩]

/-- The whole map, 34 rows in the table's order. -/
def opcodeRows : List OpRow := opcodeRowsLow ++ (opcodeRows8 ++ (opcodeRowsHigh ++ opcodeRowsF))

/-- The bits of a word that carry the group, the sub-key or an operand; the other bits are ignored
(30_encoding.md R71). -/
def usedBits : Instr → Word
  | .clearScreen | .ret => 0xF0FF
  | .skipEqReg _ _ | .skipNeReg _ _ => 0xFFF0
  | .shr _ | .shl _ => 0xFF0F
  | .jump _ | .call _ | .skipEqImm _ _ | .skipNeImm _ _ | .loadImm _ _ | .addImm _ _
  | .loadReg _ _ | .orReg _ _ | .andReg _ _ | .xorReg _ _ | .addReg _ _ | .sub _ _ | .subn _ _
  | .loadIndex _ | .jumpOffset _ | .random _ _ | .draw _ _ _ | .skipKeyPressed _ | .skipKeyNotPressed _
  | .loadDelay _ | .waitKey _ | .setDelay _ | .setSound _ | .addIndex _ | .loadGlyph _ | .storeBcd _
  | .storeRegs _ | .loadRegs _ => 0xFFFF

/-! ### The host's view of the decoder -/

/-- The instruction word that the host numbers `w` (bit 0 the least significant bit of the one word) as the two bytes
memory holds, high byte first. -/
def tableBytes (nbits w : Nat) : List Byte :=
  let v := w % 2 ^ nbits
  [BitVec.ofNat 8 (v / 256), BitVec.ofNat 8 v]

/-- What the decoder reads from a row's word, with the default keys of 00_scope.md R7. -/
def decodeTableWord (nbits w : Nat) : Option Instr :=
  match decodeBytes Machine.defaultParams.group0Key Machine.defaultParams.groupEKey (tableBytes nbits w) with
  | .ok (i, _) => some i
  | .error _ => none

end Sys2Proof
end

