-- ==== Sys2Proof/Machine/State.lean ====
section
/-! DEFINITION. Everything the core holds (10_state.md R20 to R39), the fault record (60_exceptions.md R211), and the reset
state (70_reset_and_hazards.md R250). All of it is plain data. -/

namespace Sys2Proof.Machine

/-- The nine fault kinds (60_exceptions.md R211). -/
inductive FaultKind
  | unknownInstruction
  | programTooLarge
  | fetchOutOfBounds
  | memoryOutOfBounds
  | stackOverflow
  | stackUnderflow
  | keyIndexOutOfRange
  | drawOutOfBounds
  | reservedWrite
deriving DecidableEq, Repr

/-- The kind's cause code (60_exceptions.md R211, D16). -/
def FaultKind.code : FaultKind → Nat
  | .unknownInstruction => 1
  | .programTooLarge => 2
  | .fetchOutOfBounds => 3
  | .memoryOutOfBounds => 4
  | .stackOverflow => 5
  | .stackUnderflow => 6
  | .keyIndexOutOfRange => 7
  | .drawOutOfBounds => 8
  | .reservedWrite => 9

/-- The kind's own value in a fault record (60_exceptions.md R211, column "detail"). -/
inductive FaultDetail
  | none
  /-- ProgramTooLarge: the length of the image. -/
  | length (len : Nat)
  /-- MemoryOutOfBounds, ReservedWrite: the first failing address, an unbounded number (20_memory.md R58). -/
  | address (a : Nat)
  /-- StackOverflow, StackUnderflow: SP. -/
  | stackPointer (sp : Nat)
  /-- KeyIndexOutOfRange: the index. -/
  | keyIndex (k : Nat)
  /-- DrawOutOfBounds: the first off-screen pixel. -/
  | pixel (col row : Nat)
deriving DecidableEq, Repr

/-- The record a fault leaves in `halted` (60_exceptions.md R211). The code is a function of the kind, so it is computed, not
stored twice. -/
structure FaultRecord where
  kind   : FaultKind
  addr   : Option Word
  word   : Option Word
  detail : FaultDetail
deriving DecidableEq, Repr

/-- The record's cause code (60_exceptions.md R211). -/
def FaultRecord.code (r : FaultRecord) : Nat := r.kind.code

/-- One row of the framebuffer, columns 0..63 left to right; true is `on` (10_state.md R31). -/
abbrev FrameRow := Vector Bool 64

/-- The framebuffer, rows 0..31 top to bottom (10_state.md R31). -/
abbrev Frame := Vector FrameRow 32

/-- The state of the core. -/
structure State where
  /-- The memory cells that differ from their reset contents, addresses rising (20_memory.md R50). -/
  mem       : List Host.Cell
  /-- `reg[0x0]` to `reg[0xF]` (10_state.md R21). -/
  regs      : Vector Byte 16
  /-- `I` (10_state.md R27). -/
  index     : Word
  /-- `pc` (10_state.md R24). -/
  pc        : Word
  /-- `S[0]` to `S[15]` (10_state.md R28). -/
  stack     : Vector Word 16
  /-- `SP`, the number of occupied slots, 0..16 (10_state.md R28, R38). -/
  sp        : Fin 17
  /-- `DT` (10_state.md R30). -/
  delay     : Byte
  /-- `ST` (10_state.md R30). -/
  sound     : Byte
  /-- `FB` (10_state.md R31). -/
  fb        : Frame
  /-- `KEY[0]` to `KEY[15]`; only the host writes it (10_state.md R32). -/
  keys      : Vector Bool 16
  /-- `CI` (10_state.md R33). -/
  ci        : Word
  /-- The fault latch (10_state.md R35). -/
  halted    : Option FaultRecord
  /-- Whether a step has begun since `initialize` (10_state.md R36). -/
  started   : Bool
  /-- The output `sound_stop` of the last step (60_exceptions.md R230). DESIGN CHOICE (log entry 6): an output that the host
  reads between steps has to be held somewhere. -/
  soundStop : Bool
  /-- The model's own: how many random bytes were consumed (10_state.md R34). DESIGN CHOICE (log entry 4). -/
  draws     : Nat
  /-- The model's own: the named parameters (00_scope.md R7). DESIGN CHOICE (log entry 2). -/
  cfg       : Params
deriving DecidableEq, Repr

/-- Why a step has no next state. -/
inductive Fault
  /-- Raised by `step` alone, when the core is already halted: it returns the latched record, and since there is no next state
  the caller's state stays as it is (60_exceptions.md R222, U14). Safe: nothing runs after it, as the spec says. A fault that an
  instruction raises is NOT this: it is a next state whose `halted` holds the record (R221). -/
  | halted (record : FaultRecord)
deriving DecidableEq, Repr

/-- Why an operation is rejected. -/
inductive Refusal
  /-- Raised by `exec` alone, in an arm whose instruction has no meaning yet. Safe. No arm does so. -/
  | notModelled (mnemonic : String)
  /-- Raised by `State.loadProgram` alone: the core has stepped or is halted, so the load is refused and changes no state
  (70_reset_and_hazards.md R254). Safe: it is the spec's own result `refused`. -/
  | loadNotAdmitted
deriving DecidableEq, Repr

/-- The result type of a meaning, of a step and of a load. -/
abbrev Result := Host.Outcome State Fault Refusal

/-- The state after `initialize` with the given parameters (10_state.md R39, 70_reset_and_hazards.md R250). -/
def State.initial (p : Params) : State where
  mem       := []
  regs      := Vector.replicate 16 0
  index     := 0
  pc        := 0x200
  stack     := Vector.replicate 16 0
  sp        := 0
  delay     := 0
  sound     := 0
  fb        := Vector.replicate 32 (Vector.replicate 64 false)
  keys      := Vector.replicate 16 false
  ci        := 0
  halted    := .none
  started   := false
  soundStop := false
  draws     := 0
  cfg       := p

/-- The state after `initialize` with the default parameters (00_scope.md R7, 10_state.md R39). -/
def State.reset : State := State.initial defaultParams

end Sys2Proof.Machine
end

