-- ==== Sys2Proof/Machine/Memory.lean ====
section
/-! DEFINITION. The 4096-byte memory (20_memory.md R50, R51) as a list of the cells that differ from their reset
contents: its canonical form, reading and writing one byte. The operations are total; the bounds checks of R58 are made by
the instructions before they get here (60_exceptions.md R221). -/

namespace Sys2Proof.Machine

/-- The canonical form from address `lo` on: addresses strictly rising, inside memory, and no entry equal to what its
address reads as when it is not listed. -/
def Memory.wfFrom (g : GlyphTable) (lo : Nat) : List Host.Cell → Bool
  | [] => true
  | (a, v) :: m => decide (lo ≤ a) && decide (a < memSize) && (v != unlisted g a) && Memory.wfFrom g (a + 1) m

/-- The canonical form of memory. -/
def Memory.wf (g : GlyphTable) (m : List Host.Cell) : Bool := Memory.wfFrom g 0 m

/-- The value memory lists for an address. -/
def Memory.lookup : List Host.Cell → Nat → Option Byte
  | [], _ => none
  | (k, v) :: m, a => if k = a then some v else Memory.lookup m a

/-- The byte at address `a` (00_scope.md R11). -/
def Memory.read (g : GlyphTable) (m : List Host.Cell) (a : Nat) : Byte :=
  (Memory.lookup m a).getD (unlisted g a)

/-- List `v` for `a`, keeping the addresses rising. -/
def Memory.put : List Host.Cell → Nat → Byte → List Host.Cell
  | [], a, v => [(a, v)]
  | (k, w) :: m, a, v =>
    if a < k then (a, v) :: (k, w) :: m
    else if a = k then (a, v) :: m
    else (k, w) :: Memory.put m a v

/-- Stop listing `a`. -/
def Memory.erase (m : List Host.Cell) (a : Nat) : List Host.Cell := m.filter (fun c => c.1 != a)

/-- Store `v` at `a` (00_scope.md R11). An address above 0xFFF is no cell, so nothing is stored; every caller has
checked the address first. DESIGN CHOICE (log entry 13), safe: never reached by an instruction. -/
def Memory.write (g : GlyphTable) (m : List Host.Cell) (a : Nat) (v : Byte) : List Host.Cell :=
  if memSize ≤ a then m
  else if v = unlisted g a then Memory.erase m a
  else Memory.put m a v

end Sys2Proof.Machine
end

