-- ==== Sys2Proof/Machine/Ops.lean ====
section
/-! DEFINITION. The named operations over the state: every read and write of a register, of memory, of the stack and of the
framebuffer goes through one of them; taking a fault; the parts of the step cycle (30_encoding.md R82). -/

namespace Sys2Proof.Machine

/-! ### General registers (10_state.md R21: one bank, none hardwired) -/

/-- `reg[r]`. -/
def State.reg (s : State) (r : Reg) : Byte := s.regs[r.val]

/-- `reg[r] <- v`. -/
def State.setReg (s : State) (r : Reg) (v : Byte) : State := { s with regs := s.regs.set r.val v }

/-! ### Special registers (10_state.md R38). A write of `pc` or `I` is taken mod 2^16 by its type (R25, D24). -/

/-- `pc <- t` (00_scope.md R10). -/
def State.setPc (s : State) (t : Word) : State := { s with pc := t }

/-- `I <- v` (10_state.md R27). -/
def State.setIndex (s : State) (v : Word) : State := { s with index := v }

/-- `DT <- v` (10_state.md R30). -/
def State.setDelay (s : State) (v : Byte) : State := { s with delay := v }

/-- `ST <- v` (10_state.md R30). -/
def State.setSound (s : State) (v : Byte) : State := { s with sound := v }

/-- Pass over the next instruction word: `pc <- (pc + 2) mod 2^16` (40_control_flow.md R100). -/
def State.skip (s : State) : State := s.setPc (s.pc + 2)

/-! ### Memory (00_scope.md R11) -/

/-- `MemRead(a, 1)` once its check has passed. -/
def State.readByte (s : State) (a : Nat) : Byte := Memory.read s.cfg.glyphTable s.mem a

/-- `MemWrite(a, 1, v)` once its check has passed. -/
def State.writeByte (s : State) (a : Nat) (v : Byte) : State :=
  { s with mem := Memory.write s.cfg.glyphTable s.mem a v }

/-- Consecutive bytes from address `a` on, in ascending order. -/
def State.writeBytes (s : State) (a : Nat) : List Byte → State
  | [] => s
  | v :: vs => (s.writeByte a v).writeBytes (a + 1) vs

/-- Registers 0 to k-1 take the bytes at `I`, `I + 1`, ... in ascending order (42_index_memory.md R155). -/
def State.loadFirstRegs (s : State) : Nat → State
  | 0 => s
  | k + 1 => (s.loadFirstRegs k).setReg (Fin.ofNat 16 k) (s.readByte (s.index.toNat + k))

/-- `Fetch16(a)`: big-endian (00_scope.md R11, 20_memory.md R54). -/
def State.fetch16 (s : State) (a : Nat) : Word := wordOfBytes (s.readByte a) (s.readByte (a + 1))

/-! ### Call stack (10_state.md R28) -/

/-- `S[k]`; slots 0..15 exist, so `k` is below 16 wherever a rule reads one. -/
def State.slot (s : State) (k : Nat) : Word := s.stack[k % 16]

/-- `S[SP] <- v; SP <- SP + 1`, once `SP < 16` is checked (40_control_flow.md R103). -/
def State.push (s : State) (v : Word) : State :=
  { s with stack := s.stack.set (s.sp.val % 16) v, sp := Fin.ofNat 17 (s.sp.val + 1) }

/-- `SP <- SP - 1; pc <- S[SP]`, once `SP > 0` is checked; the slot is not cleared (40_control_flow.md R101). -/
def State.popPc (s : State) : State :=
  { s with sp := Fin.ofNat 17 (s.sp.val - 1), pc := s.slot (s.sp.val - 1) }

/-! ### Framebuffer and keypad (10_state.md R31, R32) -/

/-- `FB[row][col]`; true is `on`. -/
def Frame.pixel (f : Frame) (row : Fin 32) (col : Fin 64) : Bool := f[row.val][col.val]

/-- `FB[row][col] <- b`. -/
def Frame.setPixel (f : Frame) (row : Fin 32) (col : Fin 64) (b : Bool) : Frame :=
  f.set row.val (f[row.val].set col.val b)

/-- The all-off framebuffer (43_display.md R171). -/
def Frame.clear : Frame := Vector.replicate 32 (Vector.replicate 64 false)

/-- The pixel of the state's framebuffer. -/
def State.pixel (s : State) (row : Fin 32) (col : Fin 64) : Bool := s.fb.pixel row col

/-- Replace the framebuffer. -/
def State.setFrame (s : State) (f : Frame) : State := { s with fb := f }

/-- `KEY[k]`. -/
def State.keyDown (s : State) (k : Reg) : Bool := s.keys[k.val]

/-! ### Taking a fault. There is no trap entry and no return from one (60_exceptions.md R210, R225): a fault writes its record
into `halted` and does nothing else (R221). -/

/-- Latch a record (10_state.md R35). -/
def State.latch (s : State) (r : FaultRecord) : State := { s with halted := some r }

/-- `A`, the executing instruction's own address: `pc` is `A + 2` while a handler runs (00_scope.md R16).
DEDUCED (log entry 7), safe. -/
def State.insnAddr (s : State) : Word := s.pc - 2

/-- `raise K(info)` in decode or execute: `addr` is the instruction's own address and `word` its word, which `CI` holds
(00_scope.md R12, 60_exceptions.md R211). -/
def State.raise (s : State) (k : FaultKind) (d : FaultDetail) : State :=
  s.latch ⟨k, some s.insnAddr, some s.ci, d⟩

/-- A meaning's way to raise: a next state, with the record latched. -/
def raiseFault (k : FaultKind) (d : FaultDetail) (s : State) : Result := .next (s.raise k d)

/-! ### The step cycle (30_encoding.md R82) -/

/-- The start of a step: `started` is set (10_state.md R36), and the one-step output `sound_stop` is false until this
step's tick says otherwise (60_exceptions.md R230). -/
def State.beginStep (s : State) : State := { s with started := true, soundStop := false }

/-- `pc > 0xFFE` (20_memory.md R58). -/
def State.fetchFails (s : State) : Bool := decide (0xFFE < s.pc.toNat)

/-- The fetch fault: `addr` is the `pc` that could not be fetched, and nothing else of the step happens
(60_exceptions.md R211, R214). -/
def State.raiseFetch (s : State) : State := s.latch ⟨.fetchOutOfBounds, some s.pc, none, .none⟩

/-- The fetch: `CI` takes the word, `pc` moves past it (30_encoding.md R83). -/
def State.fetch (s : State) : State := { s with ci := s.fetch16 s.pc.toNat, pc := s.pc + 2 }

/-- The state the handler of a running core sees: after the start of the step and the fetch. -/
def State.fetched (s : State) : State := s.beginStep.fetch

/-- Decode what `CI` holds, with the two key parameters (30_encoding.md R81). -/
def State.decoded (s : State) : Except DecodeError Instr := decode s.cfg.group0Key s.cfg.groupEKey s.ci

/-- A timer one tick later: clamped at 0 (10_state.md R30). -/
def tickDown (t : Byte) : Byte := if t = 0 then 0 else t - 1

/-- `tick()` (60_exceptions.md R228): both timers count down, and `sound_stop` pulses when ST goes from 1 to 0. -/
def State.tick (s : State) : State :=
  { s with
    delay := tickDown s.delay
    sound := tickDown s.sound
    soundStop := decide (s.sound = 1) }

/-- The end of a step: the tick, unless the handler raised (60_exceptions.md R221, R228). -/
def State.endStep (s : State) : State :=
  match s.halted with
  | some _ => s
  | none => s.tick

/-- What a step makes of its handler's outcome. -/
def afterExec : Result → Result
  | .next s => .next s.endStep
  | .fault r => .fault r
  | .refused r => .refused r

end Sys2Proof.Machine
end

