-- ==== Sys2Proof/Machine/Flags.lean ====
section
/-! DEFINITION. The flag values of 10_state.md R37: each is 0 or 1 and goes into `reg[0xF]`. -/

namespace Sys2Proof.Machine

/-- A flag as a register byte. -/
def flagByte (b : Bool) : Byte := if b then 1 else 0

/-- add-reg: 1 exactly when the unsigned sum exceeds 255 (41_alu.md R127). -/
def carryFlag (a b : Byte) : Byte := flagByte (decide (255 < a.toNat + b.toNat))

/-- sub, subn: 1 when the minuend exceeds the subtrahend strictly (41_alu.md R128, R130). -/
def greaterFlag (minuend subtrahend : Byte) : Byte := flagByte (decide (subtrahend.toNat < minuend.toNat))

/-- shr: the bit shifted out, bit 0 (41_alu.md R129). -/
def lsbFlag (v : Byte) : Byte := v &&& 0x01

/-- shl: the bit shifted out, bit 7 (41_alu.md R131). -/
def msbFlag (v : Byte) : Byte := (v &&& 0x80) >>> 7

/-- draw: 1 on collision (43_display.md R172). -/
def collisionFlag (collision : Bool) : Byte := flagByte collision

/-- `reg[0xF] <- f`. -/
def State.setFlag (s : State) (f : Byte) : State := s.setReg flagReg f

end Sys2Proof.Machine
end

