-- ==== Sys2Proof/Machine/Alu.lean ====
section
/-! DEFINITION. Register loads and the 8-bit ALU (41_alu.md R120 to R133). The statements of a rule run in order and each
reads what the ones before it wrote (00_scope.md R13, D4). -/

namespace Sys2Proof.Machine

/-- load-imm (41_alu.md R121). -/
def execLoadImm (x : Reg) (kk : Byte) (s : State) : Result := .next (s.setReg x kk)

/-- add-imm (41_alu.md R122): no flag. -/
def execAddImm (x : Reg) (kk : Byte) (s : State) : Result := .next (s.setReg x (s.reg x + kk))

/-- load-reg (41_alu.md R123). -/
def execLoadReg (x y : Reg) (s : State) : Result := .next (s.setReg x (s.reg y))

/-- or (41_alu.md R124): no flag. -/
def execOr (x y : Reg) (s : State) : Result := .next (s.setReg x (s.reg x ||| s.reg y))

/-- and (41_alu.md R125): no flag. -/
def execAnd (x y : Reg) (s : State) : Result := .next (s.setReg x (s.reg x &&& s.reg y))

/-- xor (41_alu.md R126): no flag. -/
def execXor (x y : Reg) (s : State) : Result := .next (s.setReg x (s.reg x ^^^ s.reg y))

/-- add-reg (41_alu.md R127): the sum is taken before the flag is written. -/
def execAddReg (x y : Reg) (s : State) : Result :=
  let sum := s.reg x + s.reg y
  .next ((s.setFlag (carryFlag (s.reg x) (s.reg y))).setReg x sum)

/-- sub (41_alu.md R128): the subtraction reads `reg[0xF]` as the flag left it. -/
def execSub (x y : Reg) (s : State) : Result :=
  let t := s.setFlag (greaterFlag (s.reg x) (s.reg y))
  .next (t.setReg x (t.reg x - t.reg y))

/-- shr (41_alu.md R129): logical; the flag is captured, then `reg[x]` as it then is shifts. -/
def execShr (x : Reg) (s : State) : Result :=
  let t := s.setFlag (lsbFlag (s.reg x))
  .next (t.setReg x (t.reg x >>> 1))

/-- subn (41_alu.md R130): the subtraction reads `reg[0xF]` as the flag left it. -/
def execSubn (x y : Reg) (s : State) : Result :=
  let t := s.setFlag (greaterFlag (s.reg y) (s.reg x))
  .next (t.setReg x (t.reg y - t.reg x))

/-- shl (41_alu.md R131): the flag is captured, then `reg[x]` as it then is shifts. -/
def execShl (x : Reg) (s : State) : Result :=
  let t := s.setFlag (msbFlag (s.reg x))
  .next (t.setReg x (t.reg x <<< 1))

/-- `rnd := draw()`: the next free byte, and the state in which it is consumed (00_scope.md R14, D17). -/
def State.drawByte (s : State) : Byte × State := (Config.randomByte s.draws, { s with draws := s.draws + 1 })

/-- `reg[x] <- rnd AND kk` for a given random byte (41_alu.md R132). -/
def randomEffect (x : Reg) (kk rnd : Byte) (s : State) : Result := .next (s.setReg x (rnd &&& kk))

/-- random (41_alu.md R132). -/
def execRandom (x : Reg) (kk : Byte) (s : State) : Result := randomEffect x kk s.drawByte.1 s.drawByte.2

end Sys2Proof.Machine
end

