-- ==== Sys2Proof/Machine/Operands.lean ====
section
/-! DEFINITION. The operand forms beyond a plain register, byte or address: indirect through `I` with its checks
(42_index_memory.md R149), the key a register names (44_keypad_timers.md R189), and a sprite on the screen
(43_display.md R170 to R173). -/

namespace Sys2Proof.Machine

/-! ### Indirect through `I` (20_memory.md R58, 42_index_memory.md R149) -/

/-- The effective address `I + k`, on unbounded integers. -/
def State.effAddr (s : State) (k : Nat) : Nat := s.index.toNat + k

/-- The addresses `I + 0` to `I + (count - 1)`, ascending. -/
def State.effAddrs (s : State) (count : Nat) : List Nat := (List.range count).map s.effAddr

/-- The check of reads: the first address above 0xFFF. -/
def readCheck (addrs : List Nat) : Option Nat := addrs.find? (fun a => decide (0xFFF < a))

/-- The check of one written address: bounds, then protection (20_memory.md R52). -/
def writeCheckOne (p : LowProtect) (a : Nat) : Option FaultKind :=
  if 0xFFF < a then some .memoryOutOfBounds
  else if protectedAddr p a then some .reservedWrite
  else none

/-- The check of writes in ascending order: the first failing address and its kind (60_exceptions.md R223). -/
def writeCheck (p : LowProtect) : List Nat → Option (FaultKind × Nat)
  | [] => none
  | a :: rest =>
    match writeCheckOne p a with
    | some k => some (k, a)
    | none => writeCheck p rest

/-- Run a handler that reads `count` bytes at `I`, once every address is checked. -/
def withReads (s : State) (count : Nat) (effect : State → Result) : Result :=
  match readCheck (s.effAddrs count) with
  | some a => raiseFault .memoryOutOfBounds (.address a) s
  | none => effect s

/-- Store `bytes` from `I` on, once every address is checked. -/
def storeAtIndex (bytes : List Byte) (s : State) : Result :=
  match writeCheck s.cfg.protectLow (s.effAddrs bytes.length) with
  | some (k, a) => raiseFault k (.address a) s
  | none => .next (s.writeBytes (s.effAddr 0) bytes)

/-- `reg[0..x]`, ascending (42_index_memory.md R154). -/
def State.firstRegs (s : State) (x : Reg) : List Byte := (allRegs.take (x.val + 1)).map s.reg

/-- The three decimal digits of a byte: hundreds, tens, ones (42_index_memory.md R153). -/
def bcdDigits (v : Byte) : List Byte :=
  [BitVec.ofNat 8 (v.toNat / 100), BitVec.ofNat 8 (v.toNat / 10 % 10), BitVec.ofNat 8 (v.toNat % 10)]

/-! ### A glyph's address (42_index_memory.md R152) -/

/-- `0x050 + 5 * v`, with the whole byte, not its low nibble. -/
def glyphAddr (v : Byte) : Word := BitVec.ofNat 16 (glyphBase + 5 * v.toNat)

/-! ### Keys (44_keypad_timers.md R189, R193) -/

/-- The key a register byte names, if it names one. -/
def keyOf (v : Byte) : Option Reg := if h : v.toNat < 16 then some ⟨v.toNat, h⟩ else none

/-- The lowest-indexed key that is down (44_keypad_timers.md R193, D14). -/
def State.lowestKey (s : State) : Option Reg := allRegs.find? s.keyDown

/-- A key number as a register byte. -/
def keyByte (k : Reg) : Byte := BitVec.ofNat 8 k.val

/-! ### Sprites (43_display.md R170, R172, R173) -/

/-- The origin column `reg[x] mod 64`. -/
def originCol (v : Byte) : Nat := v.toNat % 64

/-- The origin row `reg[y] mod 32`. -/
def originRow (v : Byte) : Nat := v.toNat % 32

/-- Bit column `c` of sprite row `r`: the byte at `I + r`, bit 7 leftmost. -/
def State.spriteBit (s : State) (r c : Nat) : Bool := (s.readByte (s.effAddr r)).getLsbD (7 - c)

/-- The `(row, column)` places of an `n`-row sprite, row-major, most significant bit first. -/
def spritePlaces (n : Nat) : List (Nat × Nat) :=
  (List.range n).flatMap fun r => (List.range 8).map fun c => (r, c)

/-- The places whose sprite bit is set, in that order. -/
def State.setBits (s : State) (n : Nat) : List (Nat × Nat) :=
  (spritePlaces n).filter fun rc => s.spriteBit rc.1 rc.2

/-- Whether screen column `c`, row `r` is beyond column 63 or row 31. -/
def offScreen (c r : Nat) : Bool := decide (63 < c) || decide (31 < r)

/-- `target(c, r)` (43_display.md R173): the `(row, column)` of the pixel a set bit hits, if it hits one. -/
def target (mode : EdgeMode) (c r : Nat) : Option (Fin 32 × Fin 64) :=
  match mode with
  | .wrap => some (Fin.ofNat 32 r, Fin.ofNat 64 c)
  | .fault | .clip => if offScreen c r then none else some (Fin.ofNat 32 r, Fin.ofNat 64 c)

/-- The check of fault mode: the first set bit that lands off the screen, as `(column, row)`. -/
def edgeCheck (mode : EdgeMode) (ox oy : Nat) (bits : List (Nat × Nat)) : Option (Nat × Nat) :=
  match mode with
  | .fault => (bits.map fun rc => (ox + rc.2, oy + rc.1)).find? fun p => offScreen p.1 p.2
  | .clip | .wrap => none

/-- The pixels the set bits hit, in order. -/
def hitPixels (mode : EdgeMode) (ox oy : Nat) (bits : List (Nat × Nat)) : List (Fin 32 × Fin 64) :=
  bits.filterMap fun rc => target mode (ox + rc.2) (oy + rc.1)

/-- XOR the hit pixels into the framebuffer, remembering whether one was on (43_display.md R172). -/
def xorPixels (f : Frame) (collision : Bool) : List (Fin 32 × Fin 64) → Frame × Bool
  | [] => (f, collision)
  | p :: ps => xorPixels (f.setPixel p.1 p.2 (!f.pixel p.1 p.2)) (collision || f.pixel p.1 p.2) ps

end Sys2Proof.Machine
end

