-- ==== Sys2Proof/Machine/ControlFlow.lean ====
section
/-! DEFINITION. Control transfer (40_control_flow.md R100 to R109). `pc` is `A + 2` here (00_scope.md R16). -/

namespace Sys2Proof.Machine

/-- Skip the next word when the condition holds (40_control_flow.md R100). -/
def skipIf (c : Bool) (s : State) : Result := .next (if c then s.skip else s)

/-- return (40_control_flow.md R101). -/
def execRet (s : State) : Result :=
  if s.sp = 0 then raiseFault .stackUnderflow (.stackPointer 0) s
  else .next s.popPc

/-- jump (40_control_flow.md R102). -/
def execJump (nnn : BitVec 12) (s : State) : Result := .next (s.setPc (nnn.setWidth 16))

/-- call (40_control_flow.md R103): the pushed value is `A + 2`. -/
def execCall (nnn : BitVec 12) (s : State) : Result :=
  if s.sp = 16 then raiseFault .stackOverflow (.stackPointer 16) s
  else .next ((s.push s.pc).setPc (nnn.setWidth 16))

/-- skip-eq-imm (40_control_flow.md R104). -/
def execSkipEqImm (x : Reg) (kk : Byte) (s : State) : Result := skipIf (s.reg x == kk) s

/-- skip-ne-imm (40_control_flow.md R105). -/
def execSkipNeImm (x : Reg) (kk : Byte) (s : State) : Result := skipIf (s.reg x != kk) s

/-- skip-eq-reg (40_control_flow.md R106). -/
def execSkipEqReg (x y : Reg) (s : State) : Result := skipIf (s.reg x == s.reg y) s

/-- skip-ne-reg (40_control_flow.md R107). -/
def execSkipNeReg (x y : Reg) (s : State) : Result := skipIf (s.reg x != s.reg y) s

/-- jump-offset (40_control_flow.md R108): the offset register is always `reg[0x0]`. -/
def execJumpOffset (nnn : BitVec 12) (s : State) : Result :=
  .next (s.setPc (BitVec.ofNat 16 ((s.reg 0).toNat + nnn.toNat)))

end Sys2Proof.Machine
end

