-- ==== Sys2Proof/Machine/Display.lean ====
section
/-! DEFINITION. The framebuffer instructions (43_display.md R170 to R174). -/

namespace Sys2Proof.Machine

/-- clear-screen (43_display.md R171). -/
def execClearScreen (s : State) : Result := .next (s.setFrame Frame.clear)

/-- The effect of draw once its checks have passed: XOR the hit pixels, then the collision flag (43_display.md R172). -/
def State.drawSprite (s : State) (ox oy n : Nat) : State :=
  let drawn := xorPixels s.fb false (hitPixels s.cfg.drawEdge ox oy (s.setBits n))
  (s.setFrame drawn.1).setFlag (collisionFlag drawn.2)

/-- draw with a given origin: memory bounds, then the screen edge, then the effect (43_display.md R172, 60_exceptions.md
R223). -/
def drawAt (ox oy n : Nat) (s : State) : Result :=
  withReads s n fun t =>
    match edgeCheck t.cfg.drawEdge ox oy (t.setBits n) with
    | some (c, r) => raiseFault .drawOutOfBounds (.pixel c r) t
    | none => .next (t.drawSprite ox oy n)

/-- draw (43_display.md R172): the origin is read before `reg[0xF]` is written, and only the origin wraps. -/
def execDraw (x y : Reg) (n : Nat) (s : State) : Result :=
  drawAt (originCol (s.reg x)) (originRow (s.reg y)) n s

end Sys2Proof.Machine
end

