-- ==== Sys2Proof/Machine/IndexMemory.lean ====
section
/-! DEFINITION. The index register and memory transfers (42_index_memory.md R149 to R155). None of them moves `I` as a side
effect of an access, and every check precedes every effect. -/

namespace Sys2Proof.Machine

/-- load-index (42_index_memory.md R150). -/
def execLoadIndex (nnn : BitVec 12) (s : State) : Result := .next (s.setIndex (nnn.setWidth 16))

/-- add-index (42_index_memory.md R151): mod 65536, no flag. -/
def execAddIndex (x : Reg) (s : State) : Result := .next (s.setIndex (s.index + (s.reg x).setWidth 16))

/-- load-glyph (42_index_memory.md R152). -/
def execLoadGlyph (x : Reg) (s : State) : Result := .next (s.setIndex (glyphAddr (s.reg x)))

/-- store-bcd (42_index_memory.md R153). -/
def execStoreBcd (x : Reg) (s : State) : Result := storeAtIndex (bcdDigits (s.reg x)) s

/-- store-regs (42_index_memory.md R154). -/
def execStoreRegs (x : Reg) (s : State) : Result := storeAtIndex (s.firstRegs x) s

/-- load-regs (42_index_memory.md R155). -/
def execLoadRegs (x : Reg) (s : State) : Result :=
  withReads s (x.val + 1) fun t => .next (t.loadFirstRegs (x.val + 1))

end Sys2Proof.Machine
end

