-- ==== Sys2Proof/Machine/KeypadTimers.lean ====
section
/-! DEFINITION. Keypad and timer instructions (44_keypad_timers.md R189 to R195). The step's tick follows them. -/

namespace Sys2Proof.Machine

/-- Run a handler with the key that `reg[x]` names, or raise (44_keypad_timers.md R189). -/
def withKey (x : Reg) (s : State) (effect : Reg → State → Result) : Result :=
  match keyOf (s.reg x) with
  | some k => effect k s
  | none => raiseFault .keyIndexOutOfRange (.keyIndex (s.reg x).toNat) s

/-- skip-key-pressed (44_keypad_timers.md R190). -/
def execSkipKeyPressed (x : Reg) (s : State) : Result :=
  withKey x s fun k t => skipIf (t.keyDown k) t

/-- skip-key-not-pressed (44_keypad_timers.md R191). -/
def execSkipKeyNotPressed (x : Reg) (s : State) : Result :=
  withKey x s fun k t => skipIf (!t.keyDown k) t

/-- load-delay (44_keypad_timers.md R192): the value before this step's tick. -/
def execLoadDelay (x : Reg) (s : State) : Result := .next (s.setReg x s.delay)

/-- wait-key (44_keypad_timers.md R193): the lowest key that is down, or back to its own address. -/
def execWaitKey (x : Reg) (s : State) : Result :=
  match s.lowestKey with
  | some k => .next (s.setReg x (keyByte k))
  | none => .next (s.setPc (s.pc - 2))

/-- set-delay (44_keypad_timers.md R194). -/
def execSetDelay (x : Reg) (s : State) : Result := .next (s.setDelay (s.reg x))

/-- set-sound (44_keypad_timers.md R195). -/
def execSetSound (x : Reg) (s : State) : Result := .next (s.setSound (s.reg x))

end Sys2Proof.Machine
end

