-- ==== Sys2Proof/Machine/Cycle.lean ====
section
/-! DEFINITION. The part of the step cycle that needs exec: decode and execute (30_encoding.md R82). -/

namespace Sys2Proof.Machine

/-- Decode and execute what the fetch left in `CI`, then end the step; an illegal word raises before any effect
(30_encoding.md R82, 60_exceptions.md R212). -/
def State.decodeAndRun (s : State) : Host.Outcome State Fault Refusal :=
  match s.decoded with
  | .ok i => afterExec (exec i s)
  | .error _ => raiseFault .unknownInstruction .none s

/-- Where the host's word goes: a core that can fetch at its `pc` (log entry 9). -/
def State.readyToFetch (s : State) : State :=
  { s with halted := none, pc := if s.fetchFails then 0x200 else s.pc }

end Sys2Proof.Machine
end

