-- ==== Sys2Proof/Machine/Step.lean ====
section
/-! DEFINITION. One cycle of the core (30_encoding.md R82): fetch, decode, execute, tick. Every part is an operation of
Machine/Ops.lean or Machine/Cycle.lean; this file only puts them in their order. -/

namespace Sys2Proof.Machine

/-- `step` (30_encoding.md R82). A halted core returns its record and changes nothing (60_exceptions.md R222): the fault outcome.
A fault that this step raises is a next state with the record latched (R221). -/
def step (s : State) : Host.Outcome State Fault Refusal :=
  match s.halted with
  | some r => .fault (.halted r)
  | none => if s.fetchFails then .next s.beginStep.raiseFetch else s.fetched.decodeAndRun

/-- `s` with the host's instruction word stored where the next step fetches it. A program is loaded from outside the core
(70_reset_and_hazards.md R252, R255), and this stands for that load (log entry 9). The fetch needs a running core and a `pc` it can
fetch at, so a halted core is released and a `pc` above 0xFFE becomes 0x200; State.reset needs neither. -/
def State.withFetchWord (s : State) (nbits w : Nat) : State :=
  s.readyToFetch.writeBytes s.readyToFetch.pc.toNat (tableBytes nbits w)

end Sys2Proof.Machine
end

