-- ==== Sys2Proof/Machine/Ports.lean ====
section
/-! DEFINITION. The core's ports besides `step` (60_exceptions.md R232): the host's two operations, the keypad, the result, the
sound outputs and the framebuffer snapshot. -/

namespace Sys2Proof.Machine

/-! ### Operations -/

/-- The host's reset between two steps: the state of 10_state.md R39 whatever came before (70_reset_and_hazards.md R250, R251).
The parameters are the machine's and stay. The model's own count of random bytes goes on, so that the reseeded source's bytes
are not those of the run before: DESIGN CHOICE (log entry 8), safe. -/
def State.reinit (s : State) : State := { State.initial s.cfg with draws := s.draws }

/-- Whether a load is admitted: a running core that has not stepped (70_reset_and_hazards.md R254). -/
def State.loadAdmitted (s : State) : Bool := s.halted.isNone && !s.started

/-- `load_program(bytes)` (70_reset_and_hazards.md R252 to R254): refused, or ProgramTooLarge latched with memory as it was, or
the image copied to 0x200. -/
def State.loadProgram (bytes : List Byte) (s : State) : Result :=
  if !s.loadAdmitted then .refused .loadNotAdmitted
  else if maxProgram < bytes.length then .next (s.latch ⟨.programTooLarge, none, none, .length bytes.length⟩)
  else .next (s.writeBytes programBase bytes)

/-- The keypad port: between two steps the host may set `KEY` to any value (60_exceptions.md R233, 10_state.md R32). -/
def State.withKeys (s : State) (ks : Vector Bool 16) : State := { s with keys := ks }

/-! ### Outputs -/

/-- The port `result` (60_exceptions.md R232): none is `ok`, some record is the fault. -/
def State.result (s : State) : Option FaultRecord := s.halted

/-- `sound_active` (60_exceptions.md R230). The outputs `sound_timer` and `sound_stop` are the fields `sound` and
`soundStop`. -/
def State.soundActive (s : State) : Bool := decide (0 < s.sound.toNat)

/-! ### The framebuffer snapshot (43_display.md R175) -/

/-- The pitch, bytes per row. -/
def pitch : Nat := 256

/-- The byte offset of the cell of pixel `(col, row)`. -/
def cellOffset (row : Fin 32) (col : Fin 64) : Nat := row.val * pitch + col.val * 4

/-- The 32-bit cell of pixel `(col, row)`. -/
def State.cell (s : State) (row : Fin 32) (col : Fin 64) : BitVec 32 :=
  if s.pixel row col then s.cfg.pixelOn else s.cfg.pixelOff

/-- The four bytes of a cell as they lie in the snapshot. -/
def cellBytes (o : CellOrder) (v : BitVec 32) : List Byte :=
  let high := [v.extractLsb' 24 8, v.extractLsb' 16 8, v.extractLsb' 8 8, v.extractLsb' 0 8]
  match o with
  | .highByteFirst => high
  | .lowByteFirst => high.reverse

/-- One row of the snapshot, left to right. -/
def State.snapshotRow (s : State) (row : Fin 32) : List Byte :=
  (List.range 64).flatMap fun c => cellBytes s.cfg.cellOrder (s.cell row (Fin.ofNat 64 c))

/-- The snapshot, row-major, 8192 bytes. Reading it changes nothing. -/
def State.snapshot (s : State) : List Byte :=
  (List.range 32).flatMap fun r => s.snapshotRow (Fin.ofNat 32 r)

end Sys2Proof.Machine
end

