-- ==== Sys2Proof/Safety.lean ====
section
/-! DEFINITION. The terms the claims use: the invariant of the machine, a running core, and what a draw hits. -/

namespace Sys2Proof.Machine

/-- No fault has occurred (10_state.md R35). -/
def State.running (s : State) : Prop := s.halted = none

/-- Which places a record fills, by its kind (60_exceptions.md R211): a fetch fault has no word, a load fault neither address nor
word, the others both. -/
def FaultRecord.wf (r : FaultRecord) : Bool :=
  match r.kind with
  | .fetchOutOfBounds => r.addr.isSome && r.word.isNone
  | .programTooLarge => r.addr.isNone && r.word.isNone
  | _ => r.addr.isSome && r.word.isSome

/-- The invariant of the machine: memory keeps its canonical form (20_memory.md R50), a latched record has the shape its kind
asks for (60_exceptions.md R211), a halted core does not pulse `sound_stop` (a faulting step has no tick, R221, R230), the pulse
comes only with ST at 0 (R228), and a core that has not stepped has not pulsed (R230, 10_state.md R36). -/
structure State.Inv (s : State) : Prop where
  memory    : Memory.wf s.cfg.glyphTable s.mem = true
  record    : ∀ r, s.halted = some r → r.wf = true
  quiet     : s.halted ≠ none → s.soundStop = false
  pulse     : s.soundStop = true → s.sound = 0
  fresh     : s.started = false → s.soundStop = false

/-- How far control can reach (10_state.md R25): `pc` is at most 0xFF + 0xFFF, which jump-offset alone can reach, and every stack
slot holds an address that a fetch can leave behind, at most 0x1000. -/
structure State.PcInReach (s : State) : Prop where
  pc    : s.pc.toNat ≤ 0x10FE
  slots : ∀ k : Fin 16, s.stack[k].toNat ≤ 0x1000

/-- The state after an instruction raises in decode or execute (60_exceptions.md R211, R221): the record in `halted`, with the
instruction's own address `pc - 2` (00_scope.md R16) and its word `CI`; nothing else changes. -/
def State.faulted (s : State) (k : FaultKind) (d : FaultDetail) : State :=
  { s with halted := some ⟨k, some (s.pc - 2), some s.ci, d⟩ }

/-- Every word that `mask` and `pattern` select decodes to the instruction `f` reads from it, whatever the key parameters
(30_encoding.md R87). -/
def decodesTo (mask pattern : Word) (f : Word → Instr) : Prop :=
  ∀ (key0 keyE : SubKey) (w : Word), w &&& mask = pattern → decode key0 keyE w = .ok (f w)

/-- What `CI` holds once this state's word is fetched, decoded with this state's key parameters (30_encoding.md R81). -/
def State.nextInstr (s : State) : Except DecodeError Instr :=
  decode s.cfg.group0Key s.cfg.groupEKey (s.fetch16 s.pc.toNat)

/-- A store to address `a` is neither out of memory nor protected (20_memory.md R52, R58). -/
def State.mayStore (s : State) (a : Nat) : Prop :=
  a ≤ 0xFFF ∧
  match s.cfg.protectLow with
  | .none => True
  | .glyphs => ¬(0x050 ≤ a ∧ a ≤ 0x09F)
  | .reserved => ¬a ≤ 0x1FF

/-- A timer after one tick (60_exceptions.md R228). -/
def clampedDown (t : Byte) : Byte := if 0 < t.toNat then t - 1 else t

/-- Some set bit of an `n`-row sprite at `I`, drawn from origin column `ox` and row `oy`, hits pixel `(col, row)`
(43_display.md R172, R173). -/
def State.hits (s : State) (ox oy n : Nat) (row : Fin 32) (col : Fin 64) : Prop :=
  ∃ r c, r < n ∧ c < 8 ∧ s.spriteBit r c = true ∧ target s.cfg.drawEdge (ox + c) (oy + r) = some (row, col)

/-- Some set bit of the sprite lands beyond column 63 or row 31 (43_display.md R172). -/
def State.spillsOver (s : State) (ox oy n : Nat) : Prop :=
  ∃ r c, r < n ∧ c < 8 ∧ s.spriteBit r c = true ∧ (63 < ox + c ∨ 31 < oy + r)

end Sys2Proof.Machine
end

