-- ==== Sys2Proof/Certificates/Slice0/Obligations.lean ====
section
/-! DEFINITION. The statements for the provers. Each docstring names the rules of spec/ it formalises. -/

open Sys2Proof Sys2Proof.Machine

/-! ### Encoding and decoding -/

/-- Decoding the word of a well-formed instruction gives the instruction back, with every operand at every value, under every
setting of the key parameters, and leaves the bytes after it (30_encoding.md R71, R73 to R78). -/
def Obligations.DecodeOfEncodeIsTheInstruction : Prop :=
  ∀ (key0 keyE : SubKey) (i : Instr) (rest : List Byte), i.wf = true →
    decode key0 keyE (encode i) = .ok i ∧ decodeBytes key0 keyE (encodeBytes i ++ rest) = .ok (i, rest)

/-- With the default keys, encoding what a word decodes to gives the word's used bits back, and zero in the bits its format
ignores (30_encoding.md R71, R87). -/
def Obligations.EncodeOfDecodeKeepsEveryUsedBit : Prop :=
  ∀ (w : Word) (i : Instr), decode .lowByte .lowByte w = .ok i → encode i = w &&& usedBits i

/-- 30_encoding.md R87, with the table as `opcodeRows`: with the defaults a word selects a row exactly when it decodes to that
row's instruction, and no word selects two rows. -/
def Obligations.OpcodeMapDecidesEveryWord : Prop :=
  ∀ w : Word,
    (∀ row ∈ opcodeRows,
      (w &&& row.mask = row.pattern ↔ ∃ i, decode .lowByte .lowByte w = .ok i ∧ i.mnemonic = row.mnemonic)) ∧
    opcodeRows.Pairwise fun a b => ¬(w &&& a.mask = a.pattern ∧ w &&& b.mask = b.pattern)

/-- 30_encoding.md R79: with the defaults exactly these words are illegal. -/
def Obligations.IllegalWordsAreExactlyTheUnlistedOnes : Prop :=
  ∀ w : Word,
    decode .lowByte .lowByte w = .error (.unknownInstruction w) ↔
      (w.toNat / 4096 = 0x0 ∧ w.toNat % 256 ∉ [0xE0, 0xEE]) ∨
      (w.toNat / 4096 = 0x8 ∧ w.toNat % 16 ∈ [0x8, 0x9, 0xA, 0xB, 0xC, 0xD, 0xF]) ∨
      (w.toNat / 4096 = 0xE ∧ w.toNat % 256 ∉ [0x9E, 0xA1]) ∨
      (w.toNat / 4096 = 0xF ∧ w.toNat % 256 ∉ [0x07, 0x0A, 0x15, 0x18, 0x1E, 0x29, 0x33, 0x55, 0x65])

/-- 30_encoding.md R75 and R77: in groups 0x0 and 0xE a full low byte selects under either reading, a foreign low nibble is
unknown under either reading, and the key parameter decides the remaining words. -/
def Obligations.KeyParametersDecideTheRemainingWords : Prop :=
  ∀ (key0 keyE : SubKey) (w : Word),
    (w.toNat / 4096 = 0x0 →
      (w.toNat % 256 = 0xE0 → decode key0 keyE w = .ok .clearScreen) ∧
      (w.toNat % 256 = 0xEE → decode key0 keyE w = .ok .ret) ∧
      (w.toNat % 16 ≠ 0x0 → w.toNat % 16 ≠ 0xE → decode key0 keyE w = .error (.unknownInstruction w)) ∧
      (w.toNat % 256 ≠ 0xE0 → w.toNat % 16 = 0x0 →
        decode key0 keyE w =
          match key0 with
          | .lowByte => .error (.unknownInstruction w)
          | .lowNibble => .ok .clearScreen) ∧
      (w.toNat % 256 ≠ 0xEE → w.toNat % 16 = 0xE →
        decode key0 keyE w =
          match key0 with
          | .lowByte => .error (.unknownInstruction w)
          | .lowNibble => .ok .ret)) ∧
    (w.toNat / 4096 = 0xE →
      (w.toNat % 256 = 0x9E → decode key0 keyE w = .ok (.skipKeyPressed (xField w))) ∧
      (w.toNat % 256 = 0xA1 → decode key0 keyE w = .ok (.skipKeyNotPressed (xField w))) ∧
      (w.toNat % 16 ≠ 0xE → w.toNat % 16 ≠ 0x1 → decode key0 keyE w = .error (.unknownInstruction w)) ∧
      (w.toNat % 256 ≠ 0x9E → w.toNat % 16 = 0xE →
        decode key0 keyE w =
          match keyE with
          | .lowByte => .error (.unknownInstruction w)
          | .lowNibble => .ok (.skipKeyPressed (xField w))) ∧
      (w.toNat % 256 ≠ 0xA1 → w.toNat % 16 = 0x1 →
        decode key0 keyE w =
          match keyE with
          | .lowByte => .error (.unknownInstruction w)
          | .lowNibble => .ok (.skipKeyNotPressed (xField w))))

/-- 00_scope.md R15: the operand fields are these bit ranges of the word. -/
def Obligations.OperandFieldsAreTheirBitRanges : Prop :=
  ∀ w : Word,
    (xField w).val = (w.extractLsb' 8 4).toNat ∧ (yField w).val = (w.extractLsb' 4 4).toNat ∧
    kkField w = w.extractLsb' 0 8 ∧ nnnField w = w.extractLsb' 0 12 ∧ lowNibble w = (w.extractLsb' 0 4).toNat

/-- Words written out from 30_encoding.md R87, one or more a family, decode to what they stand for; two illegal words do not. -/
def Obligations.WrittenOutWordsDecode : Prop :=
  decode .lowByte .lowByte 0x05E0 = .ok .clearScreen ∧
  decode .lowByte .lowByte 0x00EE = .ok .ret ∧
  decode .lowByte .lowByte 0x2ABC = .ok (.call 0xABC) ∧
  decode .lowByte .lowByte 0x5127 = .ok (.skipEqReg 1 2) ∧
  decode .lowByte .lowByte 0x84A6 = .ok (.shr 4) ∧
  decode .lowByte .lowByte 0x8517 = .ok (.subn 5 1) ∧
  decode .lowByte .lowByte 0xC30F = .ok (.random 3 0x0F) ∧
  decode .lowByte .lowByte 0xD125 = .ok (.draw 1 2 5) ∧
  decode .lowByte .lowByte 0xE1A1 = .ok (.skipKeyNotPressed 1) ∧
  decode .lowByte .lowByte 0xF165 = .ok (.loadRegs 1) ∧
  decode .lowByte .lowByte 0x0000 = .error (.unknownInstruction 0x0000) ∧
  decode .lowByte .lowByte 0x8008 = .error (.unknownInstruction 0x8008)

/-! ### The step -/

/-- 30_encoding.md R83 with 20_memory.md R54: the fetch puts the big-endian word at `pc` into CI and moves `pc` on by 2. -/
def Obligations.FetchReadsBigEndianAndAdvances : Prop :=
  ∀ s : State,
    s.fetched.ci.toNat = (s.readByte s.pc.toNat).toNat * 256 + (s.readByte (s.pc.toNat + 1)).toNat ∧
    s.fetched.pc = s.pc + 2

/-- 30_encoding.md R82: when the word at `pc` decodes to `i`, the step is exec of `i` after the fetch, then the tick unless
`i` raised. -/
def Obligations.StepRunsTheDecodedInstruction : Prop :=
  ∀ (s t : State) (i : Instr), s.halted = none → s.pc.toNat ≤ 0xFFE → s.nextInstr = .ok i →
    exec i { s with started := true, soundStop := false, ci := s.fetch16 s.pc.toNat, pc := s.pc + 2 } = .next t →
    (t.halted = none →
      step s = .next { t with
        delay := clampedDown t.delay, sound := clampedDown t.sound, soundStop := decide (t.sound.toNat = 1) }) ∧
    (t.halted ≠ none → step s = .next t)

/-- 30_encoding.md R82, R84: a running core always has a next state: no instruction stops the model, on any operands, and
no step of a running core does. -/
def Obligations.RunningCoreAlwaysHasANextState : Prop :=
  (∀ (i : Instr) (s : State), ∃ t, exec i s = .next t) ∧ (∀ s : State, s.halted = none → ∃ t, step s = .next t)

/-- 60_exceptions.md R214: the fetch fault is raised when `pc > 0xFFE` and only then, and `pc` and CI keep their
values. -/
def Obligations.FetchFaultLeavesPcAndCi : Prop :=
  ∀ s : State, s.halted = none →
    (0xFFE < s.pc.toNat →
      step s = .next { s with
        started := true, soundStop := false, halted := some ⟨.fetchOutOfBounds, some s.pc, none, .none⟩ }) ∧
    (s.pc.toNat ≤ 0xFFE → ∀ t r, step s = .next t → t.halted = some r → r.kind ≠ .fetchOutOfBounds)

/-- 60_exceptions.md R212: an illegal word raises after the fetch and before any effect. -/
def Obligations.UnknownInstructionIsRaisedAtDecode : Prop :=
  ∀ (s : State) (e : DecodeError), s.halted = none → s.pc.toNat ≤ 0xFFE → s.nextInstr = .error e →
    step s = .next { s with
      started := true, soundStop := false, ci := s.fetch16 s.pc.toNat, pc := s.pc + 2,
      halted := some ⟨.unknownInstruction, some s.pc, some (s.fetch16 s.pc.toNat), .none⟩ }

/-- 60_exceptions.md R222: a halted core answers its record to every step, refuses every load, keeps its record when the keypad
moves, and runs again only after the host's reset. That a step of a halted core is the fault outcome is log entry 5. -/
def Obligations.HaltedCoreIsStoppedForGood : Prop :=
  ∀ (s : State) (r : FaultRecord), s.halted = some r →
    step s = .fault (.halted r) ∧ (∀ bytes, s.loadProgram bytes = .refused .loadNotAdmitted) ∧
    (∀ ks, (s.withKeys ks).halted = some r) ∧ s.reinit.halted = none

/-- 60_exceptions.md R221: a step that faults leaves the whole state as it was (fetch fault) or as the fetch left it (decode or
execute fault), with the record in `halted`; the output `sound_stop` is false after it (R230). -/
def Obligations.FaultsArePrecise : Prop :=
  ∀ (s t : State) (r : FaultRecord), s.halted = none → step s = .next t → t.halted = some r →
    (0xFFE < s.pc.toNat → t = { s with started := true, soundStop := false, halted := some r }) ∧
    (s.pc.toNat ≤ 0xFFE →
      t = { s with
        started := true, soundStop := false, ci := s.fetch16 s.pc.toNat, pc := s.pc + 2, halted := some r })

/-- 60_exceptions.md R211: what each fault record of a step holds, and which instruction can raise it. -/
def Obligations.FaultRecordsNameTheirCause : Prop :=
  ∀ (s t : State) (r : FaultRecord), s.halted = none → step s = .next t → t.halted = some r →
    r.addr = some s.pc ∧ (r.word = if r.kind = .fetchOutOfBounds then none else some (s.fetch16 s.pc.toNat)) ∧
    match r.kind with
    | .unknownInstruction => r.code = 1 ∧ r.detail = .none ∧ ∃ e, s.nextInstr = .error e
    | .programTooLarge => False
    | .fetchOutOfBounds => r.code = 3 ∧ r.detail = .none ∧ 0xFFE < s.pc.toNat
    | .memoryOutOfBounds => r.code = 4 ∧ (∃ a, r.detail = .address a ∧ 0xFFF < a ∧ s.index.toNat ≤ a) ∧
        ∃ x y n, s.nextInstr = .ok (.draw x y n) ∨ s.nextInstr = .ok (.storeBcd x) ∨
          s.nextInstr = .ok (.storeRegs x) ∨ s.nextInstr = .ok (.loadRegs x)
    | .stackOverflow => r.code = 5 ∧ r.detail = .stackPointer 16 ∧ s.sp = 16 ∧ ∃ nnn, s.nextInstr = .ok (.call nnn)
    | .stackUnderflow => r.code = 6 ∧ r.detail = .stackPointer 0 ∧ s.sp = 0 ∧ s.nextInstr = .ok .ret
    | .keyIndexOutOfRange => r.code = 7 ∧ ∃ x, r.detail = .keyIndex (s.reg x).toNat ∧ 0x0F < (s.reg x).toNat ∧
        (s.nextInstr = .ok (.skipKeyPressed x) ∨ s.nextInstr = .ok (.skipKeyNotPressed x))
    | .drawOutOfBounds => r.code = 8 ∧ s.cfg.drawEdge = .fault ∧ (∃ c w, r.detail = .pixel c w ∧ (63 < c ∨ 31 < w)) ∧
        ∃ x y n, s.nextInstr = .ok (.draw x y n)
    | .reservedWrite => r.code = 9 ∧ s.cfg.protectLow ≠ .none ∧ (∃ a, r.detail = .address a ∧ a ≤ 0x1FF) ∧
        ∃ x, s.nextInstr = .ok (.storeBcd x) ∨ s.nextInstr = .ok (.storeRegs x)

/-! ### Invariants and whole-machine rules -/

/-- Every step keeps the invariant `State.Inv` (20_memory.md R50, 60_exceptions.md R211, R221, R228, R230), from every state that
has it. -/
def Obligations.EveryStepKeepsTheInvariant : Prop :=
  ∀ s t : State, s.Inv → step s = .next t → t.Inv

/-- 10_state.md R25: `pc` stays at most 0x10FE and every return address at most 0x1000, so no write of `pc` wraps; every step
keeps this, from every state that has it. -/
def Obligations.EveryStepKeepsPcInReach : Prop :=
  ∀ s t : State, s.PcInReach → step s = .next t → t.PcInReach

/-- The state after `initialize` has both invariants, for every setting of the parameters, and so has the reset state. -/
def Obligations.ResetHasTheInvariants : Prop :=
  (State.reset.Inv ∧ State.reset.PcInReach) ∧ ∀ p : Params, (State.initial p).Inv ∧ (State.initial p).PcInReach

/-- The host's operations keep the invariants too (60_exceptions.md R233). -/
def Obligations.HostOperationsKeepTheInvariants : Prop :=
  ∀ s : State, s.Inv → s.PcInReach →
    (s.reinit.Inv ∧ s.reinit.PcInReach) ∧ (∀ ks, (s.withKeys ks).Inv ∧ (s.withKeys ks).PcInReach) ∧
      ∀ bytes t, s.loadProgram bytes = .next t → t.Inv ∧ t.PcInReach

/-- 10_state.md R32 and 00_scope.md R7: the core never writes the keypad, and no step changes a parameter. -/
def Obligations.StepNeverWritesKeypadOrParameters : Prop :=
  ∀ s t : State, step s = .next t → t.keys = s.keys ∧ t.cfg = s.cfg

/-- 10_state.md R31 and 20_memory.md R50: only clear-screen and draw write the framebuffer; only store-bcd and store-regs write
memory. -/
def Obligations.FramebufferAndMemoryHaveOnlyTheirWriters : Prop :=
  ∀ (i : Instr) (s t : State), exec i s = .next t →
    (t.fb ≠ s.fb → i = .clearScreen ∨ ∃ x y n, i = .draw x y n) ∧
    (t.mem ≠ s.mem → ∃ x, i = .storeBcd x ∨ i = .storeRegs x)

/-- 10_state.md R28: only call and return touch the stack pointer, only call writes a slot, and a pop clears none. -/
def Obligations.OnlyCallAndReturnTouchTheStack : Prop :=
  ∀ (i : Instr) (s t : State), exec i s = .next t →
    (t.sp ≠ s.sp → i = .ret ∨ ∃ nnn, i = .call nnn) ∧ (t.stack ≠ s.stack → ∃ nnn, i = .call nnn)

/-- 10_state.md R38: the writers of I, DT, ST, CI and `started` among the handlers. -/
def Obligations.SpecialRegistersHaveOnlyTheirWriters : Prop :=
  ∀ (i : Instr) (s t : State), exec i s = .next t →
    (t.index ≠ s.index → ∃ x nnn, i = .loadIndex nnn ∨ i = .addIndex x ∨ i = .loadGlyph x) ∧
    (t.delay ≠ s.delay → ∃ x, i = .setDelay x) ∧ (t.sound ≠ s.sound → ∃ x, i = .setSound x) ∧
    t.ci = s.ci ∧ t.started = s.started

/-- 10_state.md R22, R23: a general register changes only where the table says so; `reg[0xF]` as a flag only under the six
flag writers. -/
def Obligations.GeneralRegistersHaveOnlyTheirWriters : Prop :=
  ∀ (i : Instr) (s t : State) (r : Reg), exec i s = .next t → t.reg r ≠ s.reg r →
    match i with
    | .loadImm x _ | .addImm x _ | .loadReg x _ | .orReg x _ | .andReg x _ | .xorReg x _ | .random x _
    | .loadDelay x | .waitKey x => r = x
    | .addReg x _ | .sub x _ | .subn x _ | .shr x | .shl x => r = x ∨ r = 0xF
    | .draw _ _ _ => r = 0xF
    | .loadRegs x => r ≤ x
    | _ => False

/-- 10_state.md R24 (40_control_flow.md R109 sums it up): where `pc` starts, and where it stands after a step that completes, for
every instruction. -/
def Obligations.PcAfterEveryCompletedStep : Prop :=
  State.reset.pc = 0x200 ∧
  ∀ (s t : State) (i : Instr), s.halted = none → s.pc.toNat ≤ 0xFFE → s.nextInstr = .ok i → step s = .next t →
    t.halted = none →
    match i with
    | .jump nnn | .call nnn => t.pc.toNat = nnn.toNat
    | .jumpOffset nnn => t.pc.toNat = (s.reg 0).toNat + nnn.toNat
    | .ret => ∃ k : Fin 16, s.sp = k.succ ∧ t.pc = s.stack[k]
    | .skipEqImm x kk => t.pc = if s.reg x = kk then s.pc + 4 else s.pc + 2
    | .skipNeImm x kk => t.pc = if s.reg x ≠ kk then s.pc + 4 else s.pc + 2
    | .skipEqReg x y => t.pc = if s.reg x = s.reg y then s.pc + 4 else s.pc + 2
    | .skipNeReg x y => t.pc = if s.reg x ≠ s.reg y then s.pc + 4 else s.pc + 2
    | .skipKeyPressed x =>
        ∃ k : Reg, (s.reg x).toNat = k.val ∧ t.pc = if s.keyDown k = true then s.pc + 4 else s.pc + 2
    | .skipKeyNotPressed x =>
        ∃ k : Reg, (s.reg x).toNat = k.val ∧ t.pc = if s.keyDown k = true then s.pc + 2 else s.pc + 4
    | .waitKey _ => ((∀ k, s.keyDown k = false) → t.pc = s.pc) ∧ ((∃ k, s.keyDown k = true) → t.pc = s.pc + 2)
    | _ => t.pc = s.pc + 2

/-- 60_exceptions.md R228, R230: a step that completes ticks both timers once, after its handler, and pulses `sound_stop` exactly
when ST goes from 1 to 0; a step that faults has no tick and no pulse; `sound_active` is ST > 0. -/
def Obligations.CompletedStepTicksBothTimers : Prop :=
  ∀ s t : State, s.halted = none → step s = .next t →
    (t.soundActive = true ↔ 0 < t.sound.toNat) ∧
    (t.halted ≠ none → t.delay = s.delay ∧ t.sound = s.sound ∧ t.soundStop = false) ∧
    (t.halted = none → ∃ i, s.nextInstr = .ok i ∧
      (t.delay = clampedDown (match i with | .setDelay x => s.reg x | _ => s.delay)) ∧
      (t.sound = clampedDown (match i with | .setSound x => s.reg x | _ => s.sound)) ∧
      (t.soundStop = true ↔ (match i with | .setSound x => s.reg x | _ => s.sound) = 1))

/-- 10_state.md R30, R33, R36: no instruction's effect depends on CI, on `started`, on the output `sound_stop`, or, but for
set-sound which overwrites it, on ST. Each clause compares two executions; for random they are given the same random byte,
because both states have the same `draws`: that rests on the model's choice, log entry 4, and two executions of the hardware may
draw any pair of bytes. That `sound_stop` is a field of the state, which exec could read, is the model's choice too, log entry 6.
An execution that raises is left out, since its record holds CI. -/
def Obligations.HiddenStateIsNotObservable : Prop :=
  ∀ (i : Instr) (s t : State) (w : Word) (b c : Bool), s.halted = none → exec i s = .next t → t.halted = none →
    exec i { s with ci := w, started := b, soundStop := c } =
      .next { t with ci := w, started := b, soundStop := c } ∧
    ∀ v : Byte, (∀ x, i ≠ .setSound x) → exec i { s with sound := v } = .next { t with sound := v }

/-! ### Control flow -/

/-- 40_control_flow.md R101: encoding, underflow, and the pop, which clears no slot. -/
def Obligations.ReturnPopsTheTopEntry : Prop :=
  decodesTo 0xF0FF 0x00EE (fun _ => .ret) ∧
  ∀ s : State,
    (s.sp = 0 → exec .ret s = .next (s.faulted .stackUnderflow (.stackPointer 0))) ∧
    (∀ k : Fin 16, s.sp = k.succ → exec .ret s = .next { s with sp := k.castSucc, pc := s.stack[k] })

/-- 40_control_flow.md R103: encoding, overflow, and the push of the address after the call. -/
def Obligations.CallPushesTheReturnAddress : Prop :=
  decodesTo 0xF000 0x2000 (fun w => .call (nnnField w)) ∧
  ∀ (nnn : BitVec 12) (s : State),
    (s.sp = 16 → exec (.call nnn) s = .next (s.faulted .stackOverflow (.stackPointer 16))) ∧
    (∀ k : Fin 16, s.sp = k.castSucc →
      exec (.call nnn) s =
        .next { s with stack := s.stack.set k.val s.pc, sp := k.succ, pc := nnn.setWidth 16 })

/-- 40_control_flow.md R102: encoding, target, and the only target that the next fetch cannot fetch at. -/
def Obligations.JumpGoesToItsAddress : Prop :=
  decodesTo 0xF000 0x1000 (fun w => .jump (nnnField w)) ∧
  ∀ (nnn : BitVec 12) (s : State), ∃ t, exec (.jump nnn) s = .next t ∧
    t = { s with pc := t.pc } ∧ t.pc.toNat = nnn.toNat ∧ (0xFFE < t.pc.toNat ↔ nnn = 0xFFF)

/-- 40_control_flow.md R108: encoding and target; the offset register is `reg[0x0]`, and the sum is not reduced. -/
def Obligations.JumpOffsetAddsRegisterZero : Prop :=
  decodesTo 0xF000 0xB000 (fun w => .jumpOffset (nnnField w)) ∧
  ∀ (nnn : BitVec 12) (s : State), ∃ t, exec (.jumpOffset nnn) s = .next t ∧
    t = { s with pc := t.pc } ∧ t.pc.toNat = (s.reg 0).toNat + nnn.toNat

/-- 40_control_flow.md R104 to R107: encodings, and the skip of one word exactly when the condition holds; nothing else
changes. -/
def Obligations.SkipsPassOverOneWord : Prop :=
  decodesTo 0xF000 0x3000 (fun w => .skipEqImm (xField w) (kkField w)) ∧
  decodesTo 0xF000 0x4000 (fun w => .skipNeImm (xField w) (kkField w)) ∧
  decodesTo 0xF000 0x5000 (fun w => .skipEqReg (xField w) (yField w)) ∧
  decodesTo 0xF000 0x9000 (fun w => .skipNeReg (xField w) (yField w)) ∧
  ∀ (x y : Reg) (kk : Byte) (s : State),
    exec (.skipEqImm x kk) s = .next (if s.reg x = kk then { s with pc := s.pc + 2 } else s) ∧
    exec (.skipNeImm x kk) s = .next (if s.reg x ≠ kk then { s with pc := s.pc + 2 } else s) ∧
    exec (.skipEqReg x y) s = .next (if s.reg x = s.reg y then { s with pc := s.pc + 2 } else s) ∧
    exec (.skipNeReg x y) s = .next (if s.reg x ≠ s.reg y then { s with pc := s.pc + 2 } else s)

/-! ### ALU -/

/-- 41_alu.md R121, R122, R123: encodings and results of load-imm, add-imm and load-reg; no flag. -/
def Obligations.RegisterLoadsAndAddImm : Prop :=
  decodesTo 0xF000 0x6000 (fun w => .loadImm (xField w) (kkField w)) ∧
  decodesTo 0xF000 0x7000 (fun w => .addImm (xField w) (kkField w)) ∧
  decodesTo 0xF00F 0x8000 (fun w => .loadReg (xField w) (yField w)) ∧
  ∀ (x y : Reg) (kk : Byte) (s : State),
    (∃ t, exec (.loadImm x kk) s = .next t ∧ t = { s with regs := t.regs } ∧
      t.reg x = kk ∧ ∀ r, r ≠ x → t.reg r = s.reg r) ∧
    (∃ t, exec (.addImm x kk) s = .next t ∧ t = { s with regs := t.regs } ∧
      (t.reg x).toNat = ((s.reg x).toNat + kk.toNat) % 256 ∧ ∀ r, r ≠ x → t.reg r = s.reg r) ∧
    (∃ t, exec (.loadReg x y) s = .next t ∧ t = { s with regs := t.regs } ∧
      t.reg x = s.reg y ∧ ∀ r, r ≠ x → t.reg r = s.reg r)

/-- 41_alu.md R124, R125, R126: encodings and bitwise results; no flag. -/
def Obligations.LogicCombinesBitByBit : Prop :=
  decodesTo 0xF00F 0x8001 (fun w => .orReg (xField w) (yField w)) ∧
  decodesTo 0xF00F 0x8002 (fun w => .andReg (xField w) (yField w)) ∧
  decodesTo 0xF00F 0x8003 (fun w => .xorReg (xField w) (yField w)) ∧
  ∀ (x y : Reg) (s : State),
    (∃ t, exec (.orReg x y) s = .next t ∧ t = { s with regs := t.regs } ∧
      (∀ j, (t.reg x).getLsbD j = ((s.reg x).getLsbD j || (s.reg y).getLsbD j)) ∧ ∀ r, r ≠ x → t.reg r = s.reg r) ∧
    (∃ t, exec (.andReg x y) s = .next t ∧ t = { s with regs := t.regs } ∧
      (∀ j, (t.reg x).getLsbD j = ((s.reg x).getLsbD j && (s.reg y).getLsbD j)) ∧ ∀ r, r ≠ x → t.reg r = s.reg r) ∧
    (∃ t, exec (.xorReg x y) s = .next t ∧ t = { s with regs := t.regs } ∧
      (∀ j, (t.reg x).getLsbD j = ((s.reg x).getLsbD j ^^ (s.reg y).getLsbD j)) ∧ ∀ r, r ≠ x → t.reg r = s.reg r)

/-- 41_alu.md R127: encoding, the sum of the old values mod 256, the carry, and the result over the carry when x is 0xF. -/
def Obligations.AddRegSumsWithCarry : Prop :=
  decodesTo 0xF00F 0x8004 (fun w => .addReg (xField w) (yField w)) ∧
  ∀ (x y : Reg) (s : State), ∃ t, exec (.addReg x y) s = .next t ∧ t = { s with regs := t.regs } ∧
    (t.reg x).toNat = ((s.reg x).toNat + (s.reg y).toNat) % 256 ∧
    (x ≠ 0xF → t.reg 0xF = if 255 < (s.reg x).toNat + (s.reg y).toNat then 1 else 0) ∧
    ∀ r, r ≠ x → r ≠ 0xF → t.reg r = s.reg r

/-- 41_alu.md R128: encoding and the four aliasing cases; `f` is the flag of the old values, and the subtraction reads
`reg[0xF]` as just written. -/
def Obligations.SubWritesTheFlagFirst : Prop :=
  decodesTo 0xF00F 0x8005 (fun w => .sub (xField w) (yField w)) ∧
  ∀ (x y : Reg) (s : State) (f : Nat), f = (if (s.reg y).toNat < (s.reg x).toNat then 1 else 0) →
    ∃ t, exec (.sub x y) s = .next t ∧ t = { s with regs := t.regs } ∧
      (x ≠ 0xF → y ≠ 0xF → (t.reg x).toNat = ((s.reg x).toNat + 256 - (s.reg y).toNat) % 256) ∧
      (x ≠ 0xF → y = 0xF → (t.reg x).toNat = ((s.reg x).toNat + 256 - f) % 256) ∧
      (x ≠ 0xF → (t.reg 0xF).toNat = f) ∧
      (x = 0xF → y ≠ 0xF → (t.reg 0xF).toNat = (f + 256 - (s.reg y).toNat) % 256) ∧
      (x = 0xF → y = 0xF → t.reg 0xF = 0) ∧
      ∀ r, r ≠ x → r ≠ 0xF → t.reg r = s.reg r

/-- 41_alu.md R130: encoding and the four aliasing cases, with minuend and subtrahend exchanged. -/
def Obligations.SubnWritesTheFlagFirst : Prop :=
  decodesTo 0xF00F 0x8007 (fun w => .subn (xField w) (yField w)) ∧
  ∀ (x y : Reg) (s : State) (f : Nat), f = (if (s.reg x).toNat < (s.reg y).toNat then 1 else 0) →
    ∃ t, exec (.subn x y) s = .next t ∧ t = { s with regs := t.regs } ∧
      (x ≠ 0xF → y ≠ 0xF → (t.reg x).toNat = ((s.reg y).toNat + 256 - (s.reg x).toNat) % 256) ∧
      (x ≠ 0xF → y = 0xF → (t.reg x).toNat = (f + 256 - (s.reg x).toNat) % 256) ∧
      (x ≠ 0xF → (t.reg 0xF).toNat = f) ∧
      (x = 0xF → y ≠ 0xF → (t.reg 0xF).toNat = ((s.reg y).toNat + 256 - f) % 256) ∧
      (x = 0xF → y = 0xF → t.reg 0xF = 0) ∧
      ∀ r, r ≠ x → r ≠ 0xF → t.reg r = s.reg r

/-- 41_alu.md R129, R131: encodings, logical shifts by one, the bit shifted out in the flag, and the captured flag itself
shifted when x is 0xF. -/
def Obligations.ShiftsCaptureTheBitShiftedOut : Prop :=
  decodesTo 0xF00F 0x8006 (fun w => .shr (xField w)) ∧
  decodesTo 0xF00F 0x800E (fun w => .shl (xField w)) ∧
  ∀ (x : Reg) (s : State),
    (∃ t, exec (.shr x) s = .next t ∧ t = { s with regs := t.regs } ∧
      (x ≠ 0xF → (t.reg x).toNat = (s.reg x).toNat / 2 ∧ (t.reg 0xF).toNat = (s.reg x).toNat % 2) ∧
      (x = 0xF → t.reg 0xF = 0) ∧ ∀ r, r ≠ x → r ≠ 0xF → t.reg r = s.reg r) ∧
    (∃ t, exec (.shl x) s = .next t ∧ t = { s with regs := t.regs } ∧
      (x ≠ 0xF → (t.reg x).toNat = (s.reg x).toNat * 2 % 256 ∧ (t.reg 0xF).toNat = (s.reg x).toNat / 128) ∧
      (x = 0xF → (t.reg 0xF).toNat = if 128 ≤ (s.reg x).toNat then 2 else 0) ∧
      ∀ r, r ≠ x → r ≠ 0xF → t.reg r = s.reg r)

/-- 41_alu.md R132: encoding, and the fresh byte ANDed with kk. That the byte is `Config.randomByte` of the count of draws, and
that each execution moves the count on, is the model's choice, log entry 4; nothing is known of that byte. -/
def Obligations.RandomMasksAFreshByte : Prop :=
  decodesTo 0xF000 0xC000 (fun w => .random (xField w) (kkField w)) ∧
  ∀ (x : Reg) (kk : Byte) (s : State), ∃ t, exec (.random x kk) s = .next t ∧
    t = { s with regs := t.regs, draws := s.draws + 1 } ∧
    (∀ j, (t.reg x).getLsbD j = ((Config.randomByte s.draws).getLsbD j && kk.getLsbD j)) ∧
    (kk = 0 → t.reg x = 0) ∧ ∀ r, r ≠ x → t.reg r = s.reg r

/-! ### Index and memory -/

/-- 42_index_memory.md R150, R151, R152: encodings and results; no fault, no flag. -/
def Obligations.IndexWritersComputeTheirAddress : Prop :=
  decodesTo 0xF000 0xA000 (fun w => .loadIndex (nnnField w)) ∧
  decodesTo 0xF0FF 0xF01E (fun w => .addIndex (xField w)) ∧
  decodesTo 0xF0FF 0xF029 (fun w => .loadGlyph (xField w)) ∧
  ∀ (x : Reg) (nnn : BitVec 12) (s : State),
    (∃ t, exec (.loadIndex nnn) s = .next t ∧ t = { s with index := t.index } ∧ t.index.toNat = nnn.toNat) ∧
    (∃ t, exec (.addIndex x) s = .next t ∧ t = { s with index := t.index } ∧
      t.index.toNat = (s.index.toNat + (s.reg x).toNat) % 65536) ∧
    (∃ t, exec (.loadGlyph x) s = .next t ∧ t = { s with index := t.index } ∧
      t.index.toNat = 0x050 + 5 * (s.reg x).toNat)

/-- 42_index_memory.md R153: encoding, the three digits when every address passes its check, with every other byte of memory and
everything else as it was; else the first failing address is reported and nothing is stored. -/
def Obligations.StoreBcdWritesThreeDigits : Prop :=
  decodesTo 0xF0FF 0xF033 (fun w => .storeBcd (xField w)) ∧
  ∀ (x : Reg) (s : State),
    ((∀ k, k < 3 → s.mayStore (s.index.toNat + k)) →
      ∃ t, exec (.storeBcd x) s = .next t ∧ t = { s with mem := t.mem } ∧
        (t.readByte s.index.toNat).toNat = (s.reg x).toNat / 100 ∧
        (t.readByte (s.index.toNat + 1)).toNat = (s.reg x).toNat / 10 % 10 ∧
        (t.readByte (s.index.toNat + 2)).toNat = (s.reg x).toNat % 10 ∧
        ∀ a, a < s.index.toNat ∨ s.index.toNat + 3 ≤ a → t.readByte a = s.readByte a) ∧
    ∀ k, k < 3 → (∀ j, j < k → s.mayStore (s.index.toNat + j)) → ¬s.mayStore (s.index.toNat + k) →
      exec (.storeBcd x) s =
        .next (s.faulted (if 0xFFF < s.index.toNat + k then .memoryOutOfBounds else .reservedWrite)
          (.address (s.index.toNat + k)))

/-- 42_index_memory.md R154: encoding, registers 0 to x in memory when every address passes its check, with every other byte of
memory and everything else as it was; else the first failing address is reported and nothing is stored. -/
def Obligations.StoreRegsWritesTheFirstRegisters : Prop :=
  decodesTo 0xF0FF 0xF055 (fun w => .storeRegs (xField w)) ∧
  ∀ (x : Reg) (s : State),
    ((∀ k, k ≤ x.val → s.mayStore (s.index.toNat + k)) →
      ∃ t, exec (.storeRegs x) s = .next t ∧ t = { s with mem := t.mem } ∧
        (∀ r : Reg, r ≤ x → t.readByte (s.index.toNat + r.val) = s.reg r) ∧
        ∀ a, a < s.index.toNat ∨ s.index.toNat + x.val + 1 ≤ a → t.readByte a = s.readByte a) ∧
    ∀ k, k ≤ x.val → (∀ j, j < k → s.mayStore (s.index.toNat + j)) → ¬s.mayStore (s.index.toNat + k) →
      exec (.storeRegs x) s =
        .next (s.faulted (if 0xFFF < s.index.toNat + k then .memoryOutOfBounds else .reservedWrite)
          (.address (s.index.toNat + k)))

/-- 42_index_memory.md R155: encoding, the registers 0 to x from memory, and the first address above 0xFFF when there is
one. -/
def Obligations.LoadRegsReadsTheFirstRegisters : Prop :=
  decodesTo 0xF0FF 0xF065 (fun w => .loadRegs (xField w)) ∧
  ∀ (x : Reg) (s : State),
    (s.index.toNat + x.val ≤ 0xFFF → ∃ t, exec (.loadRegs x) s = .next t ∧ t = { s with regs := t.regs } ∧
      (∀ r : Reg, r ≤ x → t.reg r = s.readByte (s.index.toNat + r.val)) ∧ ∀ r : Reg, x < r → t.reg r = s.reg r) ∧
    (0xFFF < s.index.toNat + x.val →
      exec (.loadRegs x) s = .next (s.faulted .memoryOutOfBounds (.address (max s.index.toNat 0x1000))))

/-- 20_memory.md R55: load-regs over code sees the high byte at the lower address, and two bytes that store-regs wrote are
fetched as one big-endian word. -/
def Obligations.StoredBytesAreFetchedBigEndian : Prop :=
  ∀ (x r r' : Reg) (s t : State), r'.val = r.val + 1 → r' ≤ x → t.halted = s.halted →
    (exec (.storeRegs x) s = .next t → s.halted = none →
      (t.fetch16 (s.index.toNat + r.val)).toNat = (s.reg r).toNat * 256 + (s.reg r').toNat) ∧
    (exec (.loadRegs x) s = .next t → s.halted = none →
      (s.fetch16 (s.index.toNat + r.val)).toNat = (t.reg r).toNat * 256 + (t.reg r').toNat)

/-- 42_index_memory.md R154, R155 (the round trip of 95_test_vectors.md L1.4): what store-regs stored, load-regs brings back, whatever
happened to the registers between, and without touching the registers above x. -/
def Obligations.StoreRegsThenLoadRegsRestores : Prop :=
  ∀ (x : Reg) (s t u : State), s.halted = none → exec (.storeRegs x) s = .next t → t.halted = none →
    u.mem = t.mem → u.index = s.index → u.cfg = s.cfg →
    ∃ v, exec (.loadRegs x) u = .next v ∧ v = { u with regs := v.regs } ∧
      (∀ r : Reg, r ≤ x → v.reg r = s.reg r) ∧ ∀ r : Reg, x < r → v.reg r = u.reg r

/-! ### Framebuffer -/

/-- 43_display.md R171: encoding, and every pixel off; no flag. -/
def Obligations.ClearScreenTurnsEveryPixelOff : Prop :=
  decodesTo 0xF0FF 0x00E0 (fun _ => .clearScreen) ∧
  ∀ s : State, ∃ t, exec .clearScreen s = .next t ∧ t = { s with fb := t.fb } ∧ ∀ row col, t.pixel row col = false

/-- 43_display.md R172, its effects: when the checks pass, the pixels the sprite hits flip and no other pixel does, and
`reg[0xF]` says whether a hit pixel was on. -/
def Obligations.DrawFlipsExactlyTheHitPixels : Prop :=
  decodesTo 0xF000 0xD000 (fun w => .draw (xField w) (yField w) (lowNibble w)) ∧
  ∀ (x y : Reg) (n : Nat) (s : State) (ox oy : Nat), n ≤ 15 →
    ox = (s.reg x).toNat % 64 → oy = (s.reg y).toNat % 32 →
    (n = 0 ∨ s.index.toNat + n - 1 ≤ 0xFFF) → (s.cfg.drawEdge = .fault → ¬s.spillsOver ox oy n) →
    ∃ t, exec (.draw x y n) s = .next t ∧ t = { s with fb := t.fb, regs := t.regs } ∧
      (∀ row col, s.hits ox oy n row col → t.pixel row col = !s.pixel row col) ∧
      (∀ row col, ¬s.hits ox oy n row col → t.pixel row col = s.pixel row col) ∧
      ((∃ row col, s.hits ox oy n row col ∧ s.pixel row col = true) → t.reg 0xF = 1) ∧
      ((∀ row col, s.hits ox oy n row col → s.pixel row col = false) → t.reg 0xF = 0) ∧
      ∀ r, r ≠ 0xF → t.reg r = s.reg r

/-- 43_display.md R172 and 60_exceptions.md R223, its checks: memory first, with the first address above 0xFFF; then in fault
mode the first set bit off the screen, row by row and most significant bit first; nothing else changes. -/
def Obligations.DrawChecksMemoryThenTheEdge : Prop :=
  ∀ (x y : Reg) (n : Nat) (s : State) (ox oy : Nat), ox = (s.reg x).toNat % 64 → oy = (s.reg y).toNat % 32 →
    (1 ≤ n → 0xFFF < s.index.toNat + n - 1 →
      exec (.draw x y n) s = .next (s.faulted .memoryOutOfBounds (.address (max s.index.toNat 0x1000)))) ∧
    ((n = 0 ∨ s.index.toNat + n - 1 ≤ 0xFFF) → s.cfg.drawEdge = .fault →
      ∀ r c, r < n → c < 8 → s.spriteBit r c = true → (63 < ox + c ∨ 31 < oy + r) →
      (∀ r' c', c' < 8 → (r' < r ∨ r' = r ∧ c' < c) → s.spriteBit r' c' = true → ox + c' ≤ 63 ∧ oy + r' ≤ 31) →
      exec (.draw x y n) s = .next (s.faulted .drawOutOfBounds (.pixel (ox + c) (oy + r))))

/-- 43_display.md R173: the target of a set bit under each DRAW_EDGE_MODE. -/
def Obligations.TargetFollowsTheEdgeMode : Prop :=
  ∀ c r : Nat,
    (∀ m : EdgeMode, m ≠ .wrap →
      (c ≤ 63 → r ≤ 31 → ∃ row col, target m c r = some (row, col) ∧ row.val = r ∧ col.val = c) ∧
      (63 < c ∨ 31 < r → target m c r = none)) ∧
    ∃ row col, target .wrap c r = some (row, col) ∧ row.val = r % 32 ∧ col.val = c % 64

/-- 43_display.md R174: on a screen that is off under the sprite draw clears the flag; the same sprite drawn twice restores every
pixel, and the second draw sets the flag exactly when a hit pixel was off before the first. `u` is the state before the second
draw: same pixels as after the first, same sprite bytes, `I` and origin. -/
def Obligations.DrawingTwiceRestoresTheScreen : Prop :=
  ∀ (x y : Reg) (n : Nat) (s t u v : State) (ox oy : Nat), n ≤ 15 →
    ox = (s.reg x).toNat % 64 → oy = (s.reg y).toNat % 32 →
    s.halted = none → exec (.draw x y n) s = .next t → t.halted = none →
    u.fb = t.fb → u.mem = s.mem → u.cfg = s.cfg → u.index = s.index → u.reg x = s.reg x → u.reg y = s.reg y →
    exec (.draw x y n) u = .next v →
    ((∀ row col, s.hits ox oy n row col → s.pixel row col = false) → t.reg 0xF = 0) ∧
    v.fb = s.fb ∧
    (v.reg 0xF = 1 ↔ ∃ row col, s.hits ox oy n row col ∧ s.pixel row col = false) ∧
    (s.fb = Frame.clear → (v.reg 0xF = 1 ↔ ∃ row col, s.hits ox oy n row col)) ∧
    (s.fb = Frame.clear → s.cfg.drawEdge ≠ .clip →
      (v.reg 0xF = 1 ↔ ∃ r c, r < n ∧ c < 8 ∧ s.spriteBit r c = true))

/-- 43_display.md R175: the snapshot is 2048 cells of 4 bytes, row-major; the cell of pixel `(col, row)` stands at byte offset
`row * 256 + col * 4` and is PIXEL_ON or PIXEL_OFF. That the highest byte of a cell comes first under the order
`highByteFirst` is the model's parameter, log entry 10. -/
def Obligations.SnapshotHoldsOneCellPerPixel : Prop :=
  ∀ (s : State), s.snapshot.length = 8192 ∧
    ∀ (row : Fin 32) (col : Fin 64) (k : Nat), k < 4 →
      s.snapshot[row.val * 256 + col.val * 4 + k]? =
        some ((if s.pixel row col = true then s.cfg.pixelOn else s.cfg.pixelOff).extractLsb'
          (8 * match s.cfg.cellOrder with | .highByteFirst => 3 - k | .lowByteFirst => k) 8)

/-! ### Keypad and timers -/

/-- 44_keypad_timers.md R190, R191: encodings, the skip on the named key's state, and the fault for a byte above 0x0F. -/
def Obligations.KeySkipsTestTheNamedKey : Prop :=
  decodesTo 0xF0FF 0xE09E (fun w => .skipKeyPressed (xField w)) ∧
  decodesTo 0xF0FF 0xE0A1 (fun w => .skipKeyNotPressed (xField w)) ∧
  ∀ (x : Reg) (s : State),
    (∀ k : Reg, (s.reg x).toNat = k.val →
      exec (.skipKeyPressed x) s = .next (if s.keys[k] = true then { s with pc := s.pc + 2 } else s) ∧
      exec (.skipKeyNotPressed x) s = .next (if s.keys[k] = false then { s with pc := s.pc + 2 } else s)) ∧
    (0x0F < (s.reg x).toNat →
      exec (.skipKeyPressed x) s = .next (s.faulted .keyIndexOutOfRange (.keyIndex (s.reg x).toNat)) ∧
      exec (.skipKeyNotPressed x) s = .next (s.faulted .keyIndexOutOfRange (.keyIndex (s.reg x).toNat)))

/-- 44_keypad_timers.md R193: encoding, the lowest key that is down, and the roll-back when none is. -/
def Obligations.WaitKeyTakesTheLowestKey : Prop :=
  decodesTo 0xF0FF 0xF00A (fun w => .waitKey (xField w)) ∧
  ∀ (x : Reg) (s : State),
    (∀ k : Reg, s.keys[k] = true → (∀ j : Reg, j < k → s.keys[j] = false) →
      ∃ t, exec (.waitKey x) s = .next t ∧ t = { s with regs := t.regs } ∧
        (t.reg x).toNat = k.val ∧ ∀ r, r ≠ x → t.reg r = s.reg r) ∧
    ((∀ k : Reg, s.keys[k] = false) → exec (.waitKey x) s = .next { s with pc := s.pc - 2 })

/-- 44_keypad_timers.md R192, R194, R195: encodings and effects, before the step's tick. -/
def Obligations.TimerMovesReadAndWriteTheTimers : Prop :=
  decodesTo 0xF0FF 0xF007 (fun w => .loadDelay (xField w)) ∧
  decodesTo 0xF0FF 0xF015 (fun w => .setDelay (xField w)) ∧
  decodesTo 0xF0FF 0xF018 (fun w => .setSound (xField w)) ∧
  ∀ (x : Reg) (s : State),
    (∃ t, exec (.loadDelay x) s = .next t ∧ t = { s with regs := t.regs } ∧
      t.reg x = s.delay ∧ ∀ r, r ≠ x → t.reg r = s.reg r) ∧
    exec (.setDelay x) s = .next { s with delay := s.reg x } ∧
    exec (.setSound x) s = .next { s with sound := s.reg x }

/-- 60_exceptions.md R236 with 70_reset_and_hazards.md R263: a wait-key with no key down and a jump to its own address leave
everything but the timers as it is; CI holds the word, and the core has started. -/
def Obligations.IdleStepsChangeOnlyTheTimers : Prop :=
  ∀ (s : State) (i : Instr), s.halted = none → s.pc.toNat ≤ 0xFFE → s.nextInstr = .ok i →
    ((∃ x, i = .waitKey x) ∧ (∀ k, s.keyDown k = false) ∨ ∃ nnn, i = .jump nnn ∧ nnn.toNat = s.pc.toNat) →
    step s = .next { s with
      started := true, ci := s.fetch16 s.pc.toNat, delay := clampedDown s.delay, sound := clampedDown s.sound,
      soundStop := decide (s.sound.toNat = 1) }

/-! ### Reset and load -/

/-- 10_state.md R39, 70_reset_and_hazards.md R250: every piece of state after `initialize`, for every GLYPH_TABLE: after the first
call, and after the host's reset of any state `u` whatever it held, a halted one too. The result is `ok`. What the model's own
fields hold after the host's reset is `InitializeForgetsWhatCameBefore`. -/
def Obligations.ResetStateFollowsTheTable : Prop :=
  ∀ (p : Params) (s : State), (s = State.initial p ∨ ∃ u : State, u.cfg = p ∧ s = u.reinit) →
    (∀ i : Fin 80, s.readByte (0x050 + i.val) = p.glyphTable[i]) ∧
    (∀ a, a < 0x050 ∨ 0x0A0 ≤ a → s.readByte a = 0) ∧
    (∀ r, s.reg r = 0) ∧ s.index = 0x0000 ∧ s.pc = 0x0200 ∧ (∀ k : Fin 16, s.stack[k] = 0) ∧ s.sp = 0 ∧
    s.delay = 0 ∧ s.sound = 0 ∧ (∀ row col, s.pixel row col = false) ∧ (∀ k : Fin 16, s.keys[k] = false) ∧
    s.ci = 0x0000 ∧ s.halted = none ∧ s.started = false ∧ s.result = none

/-- 70_reset_and_hazards.md R252, R253, R254: when a load is refused, when it raises and leaves memory as it was, and what it
copies. -/
def Obligations.LoadProgramCopiesTheImage : Prop :=
  ∀ (bytes : List Byte) (s : State),
    (s.halted ≠ none ∨ s.started = true → s.loadProgram bytes = .refused .loadNotAdmitted) ∧
    (s.halted = none → s.started = false → 3584 < bytes.length →
      s.loadProgram bytes =
        .next { s with halted := some ⟨.programTooLarge, none, none, .length bytes.length⟩ }) ∧
    (s.halted = none → s.started = false → bytes.length ≤ 3584 →
      ∃ t, s.loadProgram bytes = .next t ∧ t = { s with mem := t.mem } ∧
        (∀ i : Fin bytes.length, t.readByte (0x200 + i.val) = bytes[i]) ∧
        ∀ a, a < 0x200 ∨ 0x200 + bytes.length ≤ a → t.readByte a = s.readByte a)

/-- 70_reset_and_hazards.md R250, R251: the host's reset of any state is the result of a first call, and nothing from before the
call makes a difference to it. That it keeps the parameters and lets the count of random bytes go on is the model's choice, log
entry 8, and that `sound_stop` is false after it is log entry 6. -/
def Obligations.InitializeForgetsWhatCameBefore : Prop :=
  ∀ s : State,
    s.reinit.cfg = s.cfg ∧ s.reinit.draws = s.draws ∧ s.reinit.soundStop = false ∧
    s.reinit = { State.initial s.cfg with draws := s.draws } ∧
    ∀ u : State, u.cfg = s.cfg → s.reinit = { u.reinit with draws := s.draws }

/-! ### The keypad port -/

/-- 60_exceptions.md R233, 10_state.md R32, 70_reset_and_hazards.md R261: the port sets KEY to any value and changes nothing else;
the next step has those keys, keeps them, and ends a wait-key with the lowest of them that is down; an instruction that is none of
the three keypad instructions has the same effect whatever the keypad. The last clause compares two executions; for random they
are given the same random byte, because both states have the same `draws` (the model's choice, log entry 4). That the port is a
function applied between steps is log entry 11. -/
def Obligations.KeypadPortSetsTheKeysOnly : Prop :=
  ∀ (s : State) (ks : Vector Bool 16),
    s.withKeys ks = { s with keys := ks } ∧ (∀ k : Reg, (s.withKeys ks).keyDown k = ks[k]) ∧
    (∀ t, step (s.withKeys ks) = .next t → ∀ k : Reg, t.keyDown k = ks[k]) ∧
    (∀ x k : Reg, s.halted = none → s.pc.toNat ≤ 0xFFE → s.nextInstr = .ok (.waitKey x) →
      ks[k] = true → (∀ j : Reg, j < k → ks[j] = false) →
      ∃ t, step (s.withKeys ks) = .next t ∧ t.halted = none ∧ (t.reg x).toNat = k.val ∧ t.pc = s.pc + 2) ∧
    ∀ (i : Instr) (t : State), (∀ x, i ≠ .skipKeyPressed x ∧ i ≠ .skipKeyNotPressed x ∧ i ≠ .waitKey x) →
      exec i s = .next t → exec i (s.withKeys ks) = .next (t.withKeys ks)
end

