-- ==== Sys2Proof/Laws/Decode.lean ====
section
/-! SUPPORT. Words as numbers: what a masked word is, and what the fields of an encoded word are. -/

namespace Sys2Proof

/-- A number below 2^16 masked with 0xF000. -/
theorem and_mask_F000 {n : Nat} (hn : n < 65536) : n &&& 0xF000 = n / 4096 * 4096 := by
  apply Nat.eq_of_testBit_eq
  intro j
  rw [Nat.testBit_and, show n / 4096 * 4096 = 2 ^ 12 * (n / 2 ^ 12) + 0 by omega,
    Nat.testBit_two_pow_mul_add _ (by decide), Nat.testBit_div_two_pow]
  by_cases hj : j < 16
  · interval_cases j <;> simp (decide := true)
  · have : n.testBit j = false := Nat.testBit_lt_two_pow (Nat.lt_of_lt_of_le hn (Nat.pow_le_pow_right (n := 2) (i := 16) (by decide) (by omega)))
    rw [if_neg (by omega), show j - 12 + 12 = j by omega, this, Bool.false_and]

/-- A number below 2^16 masked with 0xF0FF. -/
theorem and_mask_F0FF {n : Nat} (hn : n < 65536) : n &&& 0xF0FF = n / 4096 * 4096 + n % 256 := by
  apply Nat.eq_of_testBit_eq
  intro j
  rw [Nat.testBit_and, show n / 4096 * 4096 + n % 256 = 2 ^ 12 * (n / 2 ^ 12) + n % 2 ^ 8 by omega,
    Nat.testBit_two_pow_mul_add _ (by omega), Nat.testBit_div_two_pow, Nat.testBit_mod_two_pow]
  by_cases hj : j < 16
  · interval_cases j <;> simp (decide := true)
  · have : n.testBit j = false := Nat.testBit_lt_two_pow (Nat.lt_of_lt_of_le hn (Nat.pow_le_pow_right (n := 2) (i := 16) (by decide) (by omega)))
    rw [if_neg (by omega), show j - 12 + 12 = j by omega, this, Bool.false_and]

/-- A number below 2^16 masked with 0xF00F. -/
theorem and_mask_F00F {n : Nat} (hn : n < 65536) : n &&& 0xF00F = n / 4096 * 4096 + n % 16 := by
  apply Nat.eq_of_testBit_eq
  intro j
  rw [Nat.testBit_and, show n / 4096 * 4096 + n % 16 = 2 ^ 12 * (n / 2 ^ 12) + n % 2 ^ 4 by omega,
    Nat.testBit_two_pow_mul_add _ (by omega), Nat.testBit_div_two_pow, Nat.testBit_mod_two_pow]
  by_cases hj : j < 16
  · interval_cases j <;> simp (decide := true)
  · have : n.testBit j = false := Nat.testBit_lt_two_pow (Nat.lt_of_lt_of_le hn (Nat.pow_le_pow_right (n := 2) (i := 16) (by decide) (by omega)))
    rw [if_neg (by omega), show j - 12 + 12 = j by omega, this, Bool.false_and]

/-- A row whose mask is the top nibble alone. -/
theorem OpRow.selects_F000 (name : String) (p w : Word) :
    OpRow.selects ⟨name, 0xF000, p⟩ w = true ↔ w.toNat / 4096 * 4096 = p.toNat := by
  rw [OpRow.selects, beq_iff_eq, BitVec.toNat_eq, BitVec.toNat_and, ← and_mask_F000 w.isLt]; rfl

/-- A row whose mask is the top nibble and the low byte. -/
theorem OpRow.selects_F0FF (name : String) (p w : Word) :
    OpRow.selects ⟨name, 0xF0FF, p⟩ w = true ↔ w.toNat / 4096 * 4096 + w.toNat % 256 = p.toNat := by
  rw [OpRow.selects, beq_iff_eq, BitVec.toNat_eq, BitVec.toNat_and, ← and_mask_F0FF w.isLt]; rfl

/-- A row whose mask is the top and the low nibble. -/
theorem OpRow.selects_F00F (name : String) (p w : Word) :
    OpRow.selects ⟨name, 0xF00F, p⟩ w = true ↔ w.toNat / 4096 * 4096 + w.toNat % 16 = p.toNat := by
  rw [OpRow.selects, beq_iff_eq, BitVec.toNat_eq, BitVec.toNat_and, ← and_mask_F00F w.isLt]; rfl

/-! ### Encoded words as numbers -/

theorem wordOf_toNat {group rest : Nat} (h : group * 4096 + rest < 65536) :
    (wordOf group rest).toNat = group * 4096 + rest := by
  rw [wordOf, BitVec.toNat_ofNat, Nat.mod_eq_of_lt h]

theorem formatA_toNat {group : Nat} (nnn : BitVec 12) (h : group < 16) :
    (formatA group nnn).toNat = group * 4096 + nnn.toNat := wordOf_toNat (by omega)

theorem formatXK_toNat {group : Nat} (x : Reg) (kk : Byte) (h : group < 16) :
    (formatXK group x kk).toNat = group * 4096 + (x.val * 256 + kk.toNat) := wordOf_toNat (by omega)

theorem formatXY_toNat {group : Nat} (x y : Reg) {low : Nat} (h : group < 16) (hl : low < 16) :
    (formatXY group x y low).toNat = group * 4096 + (x.val * 256 + y.val * 16 + low) := wordOf_toNat (by omega)

theorem formatXS_toNat {group : Nat} (x : Reg) {key : Nat} (h : group < 16) (hk : key < 256) :
    (formatXS group x key).toNat = group * 4096 + (x.val * 256 + key) := wordOf_toNat (by omega)

end Sys2Proof
end

