-- ==== Sys2Proof/Laws/State.lean ====
section
/-! SUPPORT. What each named operation does to each field of State and to each way of reading it: one lemma per field, true by
rfl (by induction for the two recursive operations). Later proofs cite these and unfold no operation. -/

namespace Sys2Proof.Machine

variable (s : State)

@[simp] theorem State.setReg_mem (r : Reg) (v : Byte) : (s.setReg r v).mem = s.mem := rfl
@[simp] theorem State.setReg_regs (r : Reg) (v : Byte) : (s.setReg r v).regs = s.regs.set r.val v := rfl
@[simp] theorem State.setReg_index (r : Reg) (v : Byte) : (s.setReg r v).index = s.index := rfl
@[simp] theorem State.setReg_pc (r : Reg) (v : Byte) : (s.setReg r v).pc = s.pc := rfl
@[simp] theorem State.setReg_stack (r : Reg) (v : Byte) : (s.setReg r v).stack = s.stack := rfl
@[simp] theorem State.setReg_sp (r : Reg) (v : Byte) : (s.setReg r v).sp = s.sp := rfl
@[simp] theorem State.setReg_delay (r : Reg) (v : Byte) : (s.setReg r v).delay = s.delay := rfl
@[simp] theorem State.setReg_sound (r : Reg) (v : Byte) : (s.setReg r v).sound = s.sound := rfl
@[simp] theorem State.setReg_fb (r : Reg) (v : Byte) : (s.setReg r v).fb = s.fb := rfl
@[simp] theorem State.setReg_keys (r : Reg) (v : Byte) : (s.setReg r v).keys = s.keys := rfl
@[simp] theorem State.setReg_ci (r : Reg) (v : Byte) : (s.setReg r v).ci = s.ci := rfl
@[simp] theorem State.setReg_halted (r : Reg) (v : Byte) : (s.setReg r v).halted = s.halted := rfl
@[simp] theorem State.setReg_started (r : Reg) (v : Byte) : (s.setReg r v).started = s.started := rfl
@[simp] theorem State.setReg_soundStop (r : Reg) (v : Byte) : (s.setReg r v).soundStop = s.soundStop := rfl
@[simp] theorem State.setReg_draws (r : Reg) (v : Byte) : (s.setReg r v).draws = s.draws := rfl
@[simp] theorem State.setReg_cfg (r : Reg) (v : Byte) : (s.setReg r v).cfg = s.cfg := rfl
@[simp] theorem State.setReg_readByte (r : Reg) (v : Byte) (b : Nat) : (s.setReg r v).readByte b = s.readByte b := rfl
@[simp] theorem State.setReg_pixel (r : Reg) (v : Byte) (row : Fin 32) (col : Fin 64) : (s.setReg r v).pixel row col = s.pixel row col := rfl
@[simp] theorem State.setReg_keyDown (r : Reg) (v : Byte) (k : Reg) : (s.setReg r v).keyDown k = s.keyDown k := rfl
@[simp] theorem State.setReg_slot (r : Reg) (v : Byte) (j : Nat) : (s.setReg r v).slot j = s.slot j := rfl
@[simp] theorem State.setReg_effAddr (r : Reg) (v : Byte) (j : Nat) : (s.setReg r v).effAddr j = s.effAddr j := rfl

@[simp] theorem State.setFlag_mem (v : Byte) : (s.setFlag v).mem = s.mem := rfl
@[simp] theorem State.setFlag_regs (v : Byte) : (s.setFlag v).regs = s.regs.set 15 v := rfl
@[simp] theorem State.setFlag_index (v : Byte) : (s.setFlag v).index = s.index := rfl
@[simp] theorem State.setFlag_pc (v : Byte) : (s.setFlag v).pc = s.pc := rfl
@[simp] theorem State.setFlag_stack (v : Byte) : (s.setFlag v).stack = s.stack := rfl
@[simp] theorem State.setFlag_sp (v : Byte) : (s.setFlag v).sp = s.sp := rfl
@[simp] theorem State.setFlag_delay (v : Byte) : (s.setFlag v).delay = s.delay := rfl
@[simp] theorem State.setFlag_sound (v : Byte) : (s.setFlag v).sound = s.sound := rfl
@[simp] theorem State.setFlag_fb (v : Byte) : (s.setFlag v).fb = s.fb := rfl
@[simp] theorem State.setFlag_keys (v : Byte) : (s.setFlag v).keys = s.keys := rfl
@[simp] theorem State.setFlag_ci (v : Byte) : (s.setFlag v).ci = s.ci := rfl
@[simp] theorem State.setFlag_halted (v : Byte) : (s.setFlag v).halted = s.halted := rfl
@[simp] theorem State.setFlag_started (v : Byte) : (s.setFlag v).started = s.started := rfl
@[simp] theorem State.setFlag_soundStop (v : Byte) : (s.setFlag v).soundStop = s.soundStop := rfl
@[simp] theorem State.setFlag_draws (v : Byte) : (s.setFlag v).draws = s.draws := rfl
@[simp] theorem State.setFlag_cfg (v : Byte) : (s.setFlag v).cfg = s.cfg := rfl
@[simp] theorem State.setFlag_readByte (v : Byte) (b : Nat) : (s.setFlag v).readByte b = s.readByte b := rfl
@[simp] theorem State.setFlag_pixel (v : Byte) (row : Fin 32) (col : Fin 64) : (s.setFlag v).pixel row col = s.pixel row col := rfl
@[simp] theorem State.setFlag_keyDown (v : Byte) (k : Reg) : (s.setFlag v).keyDown k = s.keyDown k := rfl
@[simp] theorem State.setFlag_slot (v : Byte) (j : Nat) : (s.setFlag v).slot j = s.slot j := rfl
@[simp] theorem State.setFlag_effAddr (v : Byte) (j : Nat) : (s.setFlag v).effAddr j = s.effAddr j := rfl

@[simp] theorem State.setPc_mem (t : Word) : (s.setPc t).mem = s.mem := rfl
@[simp] theorem State.setPc_regs (t : Word) : (s.setPc t).regs = s.regs := rfl
@[simp] theorem State.setPc_index (t : Word) : (s.setPc t).index = s.index := rfl
@[simp] theorem State.setPc_pc (t : Word) : (s.setPc t).pc = t := rfl
@[simp] theorem State.setPc_stack (t : Word) : (s.setPc t).stack = s.stack := rfl
@[simp] theorem State.setPc_sp (t : Word) : (s.setPc t).sp = s.sp := rfl
@[simp] theorem State.setPc_delay (t : Word) : (s.setPc t).delay = s.delay := rfl
@[simp] theorem State.setPc_sound (t : Word) : (s.setPc t).sound = s.sound := rfl
@[simp] theorem State.setPc_fb (t : Word) : (s.setPc t).fb = s.fb := rfl
@[simp] theorem State.setPc_keys (t : Word) : (s.setPc t).keys = s.keys := rfl
@[simp] theorem State.setPc_ci (t : Word) : (s.setPc t).ci = s.ci := rfl
@[simp] theorem State.setPc_halted (t : Word) : (s.setPc t).halted = s.halted := rfl
@[simp] theorem State.setPc_started (t : Word) : (s.setPc t).started = s.started := rfl
@[simp] theorem State.setPc_soundStop (t : Word) : (s.setPc t).soundStop = s.soundStop := rfl
@[simp] theorem State.setPc_draws (t : Word) : (s.setPc t).draws = s.draws := rfl
@[simp] theorem State.setPc_cfg (t : Word) : (s.setPc t).cfg = s.cfg := rfl
@[simp] theorem State.setPc_reg (t : Word) (q : Reg) : (s.setPc t).reg q = s.reg q := rfl
@[simp] theorem State.setPc_readByte (t : Word) (b : Nat) : (s.setPc t).readByte b = s.readByte b := rfl
@[simp] theorem State.setPc_pixel (t : Word) (row : Fin 32) (col : Fin 64) : (s.setPc t).pixel row col = s.pixel row col := rfl
@[simp] theorem State.setPc_keyDown (t : Word) (k : Reg) : (s.setPc t).keyDown k = s.keyDown k := rfl
@[simp] theorem State.setPc_slot (t : Word) (j : Nat) : (s.setPc t).slot j = s.slot j := rfl
@[simp] theorem State.setPc_effAddr (t : Word) (j : Nat) : (s.setPc t).effAddr j = s.effAddr j := rfl

@[simp] theorem State.setIndex_mem (v : Word) : (s.setIndex v).mem = s.mem := rfl
@[simp] theorem State.setIndex_regs (v : Word) : (s.setIndex v).regs = s.regs := rfl
@[simp] theorem State.setIndex_index (v : Word) : (s.setIndex v).index = v := rfl
@[simp] theorem State.setIndex_pc (v : Word) : (s.setIndex v).pc = s.pc := rfl
@[simp] theorem State.setIndex_stack (v : Word) : (s.setIndex v).stack = s.stack := rfl
@[simp] theorem State.setIndex_sp (v : Word) : (s.setIndex v).sp = s.sp := rfl
@[simp] theorem State.setIndex_delay (v : Word) : (s.setIndex v).delay = s.delay := rfl
@[simp] theorem State.setIndex_sound (v : Word) : (s.setIndex v).sound = s.sound := rfl
@[simp] theorem State.setIndex_fb (v : Word) : (s.setIndex v).fb = s.fb := rfl
@[simp] theorem State.setIndex_keys (v : Word) : (s.setIndex v).keys = s.keys := rfl
@[simp] theorem State.setIndex_ci (v : Word) : (s.setIndex v).ci = s.ci := rfl
@[simp] theorem State.setIndex_halted (v : Word) : (s.setIndex v).halted = s.halted := rfl
@[simp] theorem State.setIndex_started (v : Word) : (s.setIndex v).started = s.started := rfl
@[simp] theorem State.setIndex_soundStop (v : Word) : (s.setIndex v).soundStop = s.soundStop := rfl
@[simp] theorem State.setIndex_draws (v : Word) : (s.setIndex v).draws = s.draws := rfl
@[simp] theorem State.setIndex_cfg (v : Word) : (s.setIndex v).cfg = s.cfg := rfl
@[simp] theorem State.setIndex_reg (v : Word) (q : Reg) : (s.setIndex v).reg q = s.reg q := rfl
@[simp] theorem State.setIndex_readByte (v : Word) (b : Nat) : (s.setIndex v).readByte b = s.readByte b := rfl
@[simp] theorem State.setIndex_pixel (v : Word) (row : Fin 32) (col : Fin 64) : (s.setIndex v).pixel row col = s.pixel row col := rfl
@[simp] theorem State.setIndex_keyDown (v : Word) (k : Reg) : (s.setIndex v).keyDown k = s.keyDown k := rfl
@[simp] theorem State.setIndex_slot (v : Word) (j : Nat) : (s.setIndex v).slot j = s.slot j := rfl

@[simp] theorem State.setDelay_mem (v : Byte) : (s.setDelay v).mem = s.mem := rfl
@[simp] theorem State.setDelay_regs (v : Byte) : (s.setDelay v).regs = s.regs := rfl
@[simp] theorem State.setDelay_index (v : Byte) : (s.setDelay v).index = s.index := rfl
@[simp] theorem State.setDelay_pc (v : Byte) : (s.setDelay v).pc = s.pc := rfl
@[simp] theorem State.setDelay_stack (v : Byte) : (s.setDelay v).stack = s.stack := rfl
@[simp] theorem State.setDelay_sp (v : Byte) : (s.setDelay v).sp = s.sp := rfl
@[simp] theorem State.setDelay_delay (v : Byte) : (s.setDelay v).delay = v := rfl
@[simp] theorem State.setDelay_sound (v : Byte) : (s.setDelay v).sound = s.sound := rfl
@[simp] theorem State.setDelay_fb (v : Byte) : (s.setDelay v).fb = s.fb := rfl
@[simp] theorem State.setDelay_keys (v : Byte) : (s.setDelay v).keys = s.keys := rfl
@[simp] theorem State.setDelay_ci (v : Byte) : (s.setDelay v).ci = s.ci := rfl
@[simp] theorem State.setDelay_halted (v : Byte) : (s.setDelay v).halted = s.halted := rfl
@[simp] theorem State.setDelay_started (v : Byte) : (s.setDelay v).started = s.started := rfl
@[simp] theorem State.setDelay_soundStop (v : Byte) : (s.setDelay v).soundStop = s.soundStop := rfl
@[simp] theorem State.setDelay_draws (v : Byte) : (s.setDelay v).draws = s.draws := rfl
@[simp] theorem State.setDelay_cfg (v : Byte) : (s.setDelay v).cfg = s.cfg := rfl
@[simp] theorem State.setDelay_reg (v : Byte) (q : Reg) : (s.setDelay v).reg q = s.reg q := rfl
@[simp] theorem State.setDelay_readByte (v : Byte) (b : Nat) : (s.setDelay v).readByte b = s.readByte b := rfl
@[simp] theorem State.setDelay_pixel (v : Byte) (row : Fin 32) (col : Fin 64) : (s.setDelay v).pixel row col = s.pixel row col := rfl
@[simp] theorem State.setDelay_keyDown (v : Byte) (k : Reg) : (s.setDelay v).keyDown k = s.keyDown k := rfl
@[simp] theorem State.setDelay_slot (v : Byte) (j : Nat) : (s.setDelay v).slot j = s.slot j := rfl
@[simp] theorem State.setDelay_effAddr (v : Byte) (j : Nat) : (s.setDelay v).effAddr j = s.effAddr j := rfl

@[simp] theorem State.setSound_mem (v : Byte) : (s.setSound v).mem = s.mem := rfl
@[simp] theorem State.setSound_regs (v : Byte) : (s.setSound v).regs = s.regs := rfl
@[simp] theorem State.setSound_index (v : Byte) : (s.setSound v).index = s.index := rfl
@[simp] theorem State.setSound_pc (v : Byte) : (s.setSound v).pc = s.pc := rfl
@[simp] theorem State.setSound_stack (v : Byte) : (s.setSound v).stack = s.stack := rfl
@[simp] theorem State.setSound_sp (v : Byte) : (s.setSound v).sp = s.sp := rfl
@[simp] theorem State.setSound_delay (v : Byte) : (s.setSound v).delay = s.delay := rfl
@[simp] theorem State.setSound_sound (v : Byte) : (s.setSound v).sound = v := rfl
@[simp] theorem State.setSound_fb (v : Byte) : (s.setSound v).fb = s.fb := rfl
@[simp] theorem State.setSound_keys (v : Byte) : (s.setSound v).keys = s.keys := rfl
@[simp] theorem State.setSound_ci (v : Byte) : (s.setSound v).ci = s.ci := rfl
@[simp] theorem State.setSound_halted (v : Byte) : (s.setSound v).halted = s.halted := rfl
@[simp] theorem State.setSound_started (v : Byte) : (s.setSound v).started = s.started := rfl
@[simp] theorem State.setSound_soundStop (v : Byte) : (s.setSound v).soundStop = s.soundStop := rfl
@[simp] theorem State.setSound_draws (v : Byte) : (s.setSound v).draws = s.draws := rfl
@[simp] theorem State.setSound_cfg (v : Byte) : (s.setSound v).cfg = s.cfg := rfl
@[simp] theorem State.setSound_reg (v : Byte) (q : Reg) : (s.setSound v).reg q = s.reg q := rfl
@[simp] theorem State.setSound_readByte (v : Byte) (b : Nat) : (s.setSound v).readByte b = s.readByte b := rfl
@[simp] theorem State.setSound_pixel (v : Byte) (row : Fin 32) (col : Fin 64) : (s.setSound v).pixel row col = s.pixel row col := rfl
@[simp] theorem State.setSound_keyDown (v : Byte) (k : Reg) : (s.setSound v).keyDown k = s.keyDown k := rfl
@[simp] theorem State.setSound_slot (v : Byte) (j : Nat) : (s.setSound v).slot j = s.slot j := rfl
@[simp] theorem State.setSound_effAddr (v : Byte) (j : Nat) : (s.setSound v).effAddr j = s.effAddr j := rfl

@[simp] theorem State.skip_mem : s.skip.mem = s.mem := rfl
@[simp] theorem State.skip_regs : s.skip.regs = s.regs := rfl
@[simp] theorem State.skip_index : s.skip.index = s.index := rfl
@[simp] theorem State.skip_pc : s.skip.pc = s.pc + 2 := rfl
@[simp] theorem State.skip_stack : s.skip.stack = s.stack := rfl
@[simp] theorem State.skip_sp : s.skip.sp = s.sp := rfl
@[simp] theorem State.skip_delay : s.skip.delay = s.delay := rfl
@[simp] theorem State.skip_sound : s.skip.sound = s.sound := rfl
@[simp] theorem State.skip_fb : s.skip.fb = s.fb := rfl
@[simp] theorem State.skip_keys : s.skip.keys = s.keys := rfl
@[simp] theorem State.skip_ci : s.skip.ci = s.ci := rfl
@[simp] theorem State.skip_halted : s.skip.halted = s.halted := rfl
@[simp] theorem State.skip_started : s.skip.started = s.started := rfl
@[simp] theorem State.skip_soundStop : s.skip.soundStop = s.soundStop := rfl
@[simp] theorem State.skip_draws : s.skip.draws = s.draws := rfl
@[simp] theorem State.skip_cfg : s.skip.cfg = s.cfg := rfl
@[simp] theorem State.skip_reg (q : Reg) : s.skip.reg q = s.reg q := rfl
@[simp] theorem State.skip_readByte (b : Nat) : s.skip.readByte b = s.readByte b := rfl
@[simp] theorem State.skip_pixel (row : Fin 32) (col : Fin 64) : s.skip.pixel row col = s.pixel row col := rfl
@[simp] theorem State.skip_keyDown (k : Reg) : s.skip.keyDown k = s.keyDown k := rfl
@[simp] theorem State.skip_slot (j : Nat) : s.skip.slot j = s.slot j := rfl
@[simp] theorem State.skip_effAddr (j : Nat) : s.skip.effAddr j = s.effAddr j := rfl

@[simp] theorem State.writeByte_mem (a : Nat) (v : Byte) : (s.writeByte a v).mem = Memory.write s.cfg.glyphTable s.mem a v := rfl
@[simp] theorem State.writeByte_regs (a : Nat) (v : Byte) : (s.writeByte a v).regs = s.regs := rfl
@[simp] theorem State.writeByte_index (a : Nat) (v : Byte) : (s.writeByte a v).index = s.index := rfl
@[simp] theorem State.writeByte_pc (a : Nat) (v : Byte) : (s.writeByte a v).pc = s.pc := rfl
@[simp] theorem State.writeByte_stack (a : Nat) (v : Byte) : (s.writeByte a v).stack = s.stack := rfl
@[simp] theorem State.writeByte_sp (a : Nat) (v : Byte) : (s.writeByte a v).sp = s.sp := rfl
@[simp] theorem State.writeByte_delay (a : Nat) (v : Byte) : (s.writeByte a v).delay = s.delay := rfl
@[simp] theorem State.writeByte_sound (a : Nat) (v : Byte) : (s.writeByte a v).sound = s.sound := rfl
@[simp] theorem State.writeByte_fb (a : Nat) (v : Byte) : (s.writeByte a v).fb = s.fb := rfl
@[simp] theorem State.writeByte_keys (a : Nat) (v : Byte) : (s.writeByte a v).keys = s.keys := rfl
@[simp] theorem State.writeByte_ci (a : Nat) (v : Byte) : (s.writeByte a v).ci = s.ci := rfl
@[simp] theorem State.writeByte_halted (a : Nat) (v : Byte) : (s.writeByte a v).halted = s.halted := rfl
@[simp] theorem State.writeByte_started (a : Nat) (v : Byte) : (s.writeByte a v).started = s.started := rfl
@[simp] theorem State.writeByte_soundStop (a : Nat) (v : Byte) : (s.writeByte a v).soundStop = s.soundStop := rfl
@[simp] theorem State.writeByte_draws (a : Nat) (v : Byte) : (s.writeByte a v).draws = s.draws := rfl
@[simp] theorem State.writeByte_cfg (a : Nat) (v : Byte) : (s.writeByte a v).cfg = s.cfg := rfl
@[simp] theorem State.writeByte_reg (a : Nat) (v : Byte) (q : Reg) : (s.writeByte a v).reg q = s.reg q := rfl
@[simp] theorem State.writeByte_pixel (a : Nat) (v : Byte) (row : Fin 32) (col : Fin 64) : (s.writeByte a v).pixel row col = s.pixel row col := rfl
@[simp] theorem State.writeByte_keyDown (a : Nat) (v : Byte) (k : Reg) : (s.writeByte a v).keyDown k = s.keyDown k := rfl
@[simp] theorem State.writeByte_slot (a : Nat) (v : Byte) (j : Nat) : (s.writeByte a v).slot j = s.slot j := rfl
@[simp] theorem State.writeByte_effAddr (a : Nat) (v : Byte) (j : Nat) : (s.writeByte a v).effAddr j = s.effAddr j := rfl

@[simp] theorem State.push_mem (v : Word) : (s.push v).mem = s.mem := rfl
@[simp] theorem State.push_regs (v : Word) : (s.push v).regs = s.regs := rfl
@[simp] theorem State.push_index (v : Word) : (s.push v).index = s.index := rfl
@[simp] theorem State.push_pc (v : Word) : (s.push v).pc = s.pc := rfl
@[simp] theorem State.push_stack (v : Word) : (s.push v).stack = s.stack.set (s.sp.val % 16) v := rfl
@[simp] theorem State.push_sp (v : Word) : (s.push v).sp = Fin.ofNat 17 (s.sp.val + 1) := rfl
@[simp] theorem State.push_delay (v : Word) : (s.push v).delay = s.delay := rfl
@[simp] theorem State.push_sound (v : Word) : (s.push v).sound = s.sound := rfl
@[simp] theorem State.push_fb (v : Word) : (s.push v).fb = s.fb := rfl
@[simp] theorem State.push_keys (v : Word) : (s.push v).keys = s.keys := rfl
@[simp] theorem State.push_ci (v : Word) : (s.push v).ci = s.ci := rfl
@[simp] theorem State.push_halted (v : Word) : (s.push v).halted = s.halted := rfl
@[simp] theorem State.push_started (v : Word) : (s.push v).started = s.started := rfl
@[simp] theorem State.push_soundStop (v : Word) : (s.push v).soundStop = s.soundStop := rfl
@[simp] theorem State.push_draws (v : Word) : (s.push v).draws = s.draws := rfl
@[simp] theorem State.push_cfg (v : Word) : (s.push v).cfg = s.cfg := rfl
@[simp] theorem State.push_reg (v : Word) (q : Reg) : (s.push v).reg q = s.reg q := rfl
@[simp] theorem State.push_readByte (v : Word) (b : Nat) : (s.push v).readByte b = s.readByte b := rfl
@[simp] theorem State.push_pixel (v : Word) (row : Fin 32) (col : Fin 64) : (s.push v).pixel row col = s.pixel row col := rfl
@[simp] theorem State.push_keyDown (v : Word) (k : Reg) : (s.push v).keyDown k = s.keyDown k := rfl
@[simp] theorem State.push_effAddr (v : Word) (j : Nat) : (s.push v).effAddr j = s.effAddr j := rfl

@[simp] theorem State.popPc_mem : s.popPc.mem = s.mem := rfl
@[simp] theorem State.popPc_regs : s.popPc.regs = s.regs := rfl
@[simp] theorem State.popPc_index : s.popPc.index = s.index := rfl
@[simp] theorem State.popPc_pc : s.popPc.pc = s.slot (s.sp.val - 1) := rfl
@[simp] theorem State.popPc_stack : s.popPc.stack = s.stack := rfl
@[simp] theorem State.popPc_sp : s.popPc.sp = Fin.ofNat 17 (s.sp.val - 1) := rfl
@[simp] theorem State.popPc_delay : s.popPc.delay = s.delay := rfl
@[simp] theorem State.popPc_sound : s.popPc.sound = s.sound := rfl
@[simp] theorem State.popPc_fb : s.popPc.fb = s.fb := rfl
@[simp] theorem State.popPc_keys : s.popPc.keys = s.keys := rfl
@[simp] theorem State.popPc_ci : s.popPc.ci = s.ci := rfl
@[simp] theorem State.popPc_halted : s.popPc.halted = s.halted := rfl
@[simp] theorem State.popPc_started : s.popPc.started = s.started := rfl
@[simp] theorem State.popPc_soundStop : s.popPc.soundStop = s.soundStop := rfl
@[simp] theorem State.popPc_draws : s.popPc.draws = s.draws := rfl
@[simp] theorem State.popPc_cfg : s.popPc.cfg = s.cfg := rfl
@[simp] theorem State.popPc_reg (q : Reg) : s.popPc.reg q = s.reg q := rfl
@[simp] theorem State.popPc_readByte (b : Nat) : s.popPc.readByte b = s.readByte b := rfl
@[simp] theorem State.popPc_pixel (row : Fin 32) (col : Fin 64) : s.popPc.pixel row col = s.pixel row col := rfl
@[simp] theorem State.popPc_keyDown (k : Reg) : s.popPc.keyDown k = s.keyDown k := rfl
@[simp] theorem State.popPc_slot (j : Nat) : s.popPc.slot j = s.slot j := rfl
@[simp] theorem State.popPc_effAddr (j : Nat) : s.popPc.effAddr j = s.effAddr j := rfl

@[simp] theorem State.setFrame_mem (f : Frame) : (s.setFrame f).mem = s.mem := rfl
@[simp] theorem State.setFrame_regs (f : Frame) : (s.setFrame f).regs = s.regs := rfl
@[simp] theorem State.setFrame_index (f : Frame) : (s.setFrame f).index = s.index := rfl
@[simp] theorem State.setFrame_pc (f : Frame) : (s.setFrame f).pc = s.pc := rfl
@[simp] theorem State.setFrame_stack (f : Frame) : (s.setFrame f).stack = s.stack := rfl
@[simp] theorem State.setFrame_sp (f : Frame) : (s.setFrame f).sp = s.sp := rfl
@[simp] theorem State.setFrame_delay (f : Frame) : (s.setFrame f).delay = s.delay := rfl
@[simp] theorem State.setFrame_sound (f : Frame) : (s.setFrame f).sound = s.sound := rfl
@[simp] theorem State.setFrame_fb (f : Frame) : (s.setFrame f).fb = f := rfl
@[simp] theorem State.setFrame_keys (f : Frame) : (s.setFrame f).keys = s.keys := rfl
@[simp] theorem State.setFrame_ci (f : Frame) : (s.setFrame f).ci = s.ci := rfl
@[simp] theorem State.setFrame_halted (f : Frame) : (s.setFrame f).halted = s.halted := rfl
@[simp] theorem State.setFrame_started (f : Frame) : (s.setFrame f).started = s.started := rfl
@[simp] theorem State.setFrame_soundStop (f : Frame) : (s.setFrame f).soundStop = s.soundStop := rfl
@[simp] theorem State.setFrame_draws (f : Frame) : (s.setFrame f).draws = s.draws := rfl
@[simp] theorem State.setFrame_cfg (f : Frame) : (s.setFrame f).cfg = s.cfg := rfl
@[simp] theorem State.setFrame_reg (f : Frame) (q : Reg) : (s.setFrame f).reg q = s.reg q := rfl
@[simp] theorem State.setFrame_readByte (f : Frame) (b : Nat) : (s.setFrame f).readByte b = s.readByte b := rfl
@[simp] theorem State.setFrame_keyDown (f : Frame) (k : Reg) : (s.setFrame f).keyDown k = s.keyDown k := rfl
@[simp] theorem State.setFrame_slot (f : Frame) (j : Nat) : (s.setFrame f).slot j = s.slot j := rfl
@[simp] theorem State.setFrame_effAddr (f : Frame) (j : Nat) : (s.setFrame f).effAddr j = s.effAddr j := rfl

@[simp] theorem State.latch_mem (r : FaultRecord) : (s.latch r).mem = s.mem := rfl
@[simp] theorem State.latch_regs (r : FaultRecord) : (s.latch r).regs = s.regs := rfl
@[simp] theorem State.latch_index (r : FaultRecord) : (s.latch r).index = s.index := rfl
@[simp] theorem State.latch_pc (r : FaultRecord) : (s.latch r).pc = s.pc := rfl
@[simp] theorem State.latch_stack (r : FaultRecord) : (s.latch r).stack = s.stack := rfl
@[simp] theorem State.latch_sp (r : FaultRecord) : (s.latch r).sp = s.sp := rfl
@[simp] theorem State.latch_delay (r : FaultRecord) : (s.latch r).delay = s.delay := rfl
@[simp] theorem State.latch_sound (r : FaultRecord) : (s.latch r).sound = s.sound := rfl
@[simp] theorem State.latch_fb (r : FaultRecord) : (s.latch r).fb = s.fb := rfl
@[simp] theorem State.latch_keys (r : FaultRecord) : (s.latch r).keys = s.keys := rfl
@[simp] theorem State.latch_ci (r : FaultRecord) : (s.latch r).ci = s.ci := rfl
@[simp] theorem State.latch_halted (r : FaultRecord) : (s.latch r).halted = some r := rfl
@[simp] theorem State.latch_started (r : FaultRecord) : (s.latch r).started = s.started := rfl
@[simp] theorem State.latch_soundStop (r : FaultRecord) : (s.latch r).soundStop = s.soundStop := rfl
@[simp] theorem State.latch_draws (r : FaultRecord) : (s.latch r).draws = s.draws := rfl
@[simp] theorem State.latch_cfg (r : FaultRecord) : (s.latch r).cfg = s.cfg := rfl
@[simp] theorem State.latch_reg (r : FaultRecord) (q : Reg) : (s.latch r).reg q = s.reg q := rfl
@[simp] theorem State.latch_readByte (r : FaultRecord) (b : Nat) : (s.latch r).readByte b = s.readByte b := rfl
@[simp] theorem State.latch_pixel (r : FaultRecord) (row : Fin 32) (col : Fin 64) : (s.latch r).pixel row col = s.pixel row col := rfl
@[simp] theorem State.latch_keyDown (r : FaultRecord) (k : Reg) : (s.latch r).keyDown k = s.keyDown k := rfl
@[simp] theorem State.latch_slot (r : FaultRecord) (j : Nat) : (s.latch r).slot j = s.slot j := rfl
@[simp] theorem State.latch_effAddr (r : FaultRecord) (j : Nat) : (s.latch r).effAddr j = s.effAddr j := rfl

@[simp] theorem State.raise_mem (kind : FaultKind) (d : FaultDetail) : (s.raise kind d).mem = s.mem := rfl
@[simp] theorem State.raise_regs (kind : FaultKind) (d : FaultDetail) : (s.raise kind d).regs = s.regs := rfl
@[simp] theorem State.raise_index (kind : FaultKind) (d : FaultDetail) : (s.raise kind d).index = s.index := rfl
@[simp] theorem State.raise_pc (kind : FaultKind) (d : FaultDetail) : (s.raise kind d).pc = s.pc := rfl
@[simp] theorem State.raise_stack (kind : FaultKind) (d : FaultDetail) : (s.raise kind d).stack = s.stack := rfl
@[simp] theorem State.raise_sp (kind : FaultKind) (d : FaultDetail) : (s.raise kind d).sp = s.sp := rfl
@[simp] theorem State.raise_delay (kind : FaultKind) (d : FaultDetail) : (s.raise kind d).delay = s.delay := rfl
@[simp] theorem State.raise_sound (kind : FaultKind) (d : FaultDetail) : (s.raise kind d).sound = s.sound := rfl
@[simp] theorem State.raise_fb (kind : FaultKind) (d : FaultDetail) : (s.raise kind d).fb = s.fb := rfl
@[simp] theorem State.raise_keys (kind : FaultKind) (d : FaultDetail) : (s.raise kind d).keys = s.keys := rfl
@[simp] theorem State.raise_ci (kind : FaultKind) (d : FaultDetail) : (s.raise kind d).ci = s.ci := rfl
@[simp] theorem State.raise_halted (kind : FaultKind) (d : FaultDetail) : (s.raise kind d).halted = some ⟨kind, some (s.pc - 2), some s.ci, d⟩ := rfl
@[simp] theorem State.raise_started (kind : FaultKind) (d : FaultDetail) : (s.raise kind d).started = s.started := rfl
@[simp] theorem State.raise_soundStop (kind : FaultKind) (d : FaultDetail) : (s.raise kind d).soundStop = s.soundStop := rfl
@[simp] theorem State.raise_draws (kind : FaultKind) (d : FaultDetail) : (s.raise kind d).draws = s.draws := rfl
@[simp] theorem State.raise_cfg (kind : FaultKind) (d : FaultDetail) : (s.raise kind d).cfg = s.cfg := rfl
@[simp] theorem State.raise_reg (kind : FaultKind) (d : FaultDetail) (q : Reg) : (s.raise kind d).reg q = s.reg q := rfl
@[simp] theorem State.raise_readByte (kind : FaultKind) (d : FaultDetail) (b : Nat) : (s.raise kind d).readByte b = s.readByte b := rfl
@[simp] theorem State.raise_pixel (kind : FaultKind) (d : FaultDetail) (row : Fin 32) (col : Fin 64) : (s.raise kind d).pixel row col = s.pixel row col := rfl
@[simp] theorem State.raise_keyDown (kind : FaultKind) (d : FaultDetail) (k : Reg) : (s.raise kind d).keyDown k = s.keyDown k := rfl
@[simp] theorem State.raise_slot (kind : FaultKind) (d : FaultDetail) (j : Nat) : (s.raise kind d).slot j = s.slot j := rfl
@[simp] theorem State.raise_effAddr (kind : FaultKind) (d : FaultDetail) (j : Nat) : (s.raise kind d).effAddr j = s.effAddr j := rfl

@[simp] theorem State.beginStep_mem : s.beginStep.mem = s.mem := rfl
@[simp] theorem State.beginStep_regs : s.beginStep.regs = s.regs := rfl
@[simp] theorem State.beginStep_index : s.beginStep.index = s.index := rfl
@[simp] theorem State.beginStep_pc : s.beginStep.pc = s.pc := rfl
@[simp] theorem State.beginStep_stack : s.beginStep.stack = s.stack := rfl
@[simp] theorem State.beginStep_sp : s.beginStep.sp = s.sp := rfl
@[simp] theorem State.beginStep_delay : s.beginStep.delay = s.delay := rfl
@[simp] theorem State.beginStep_sound : s.beginStep.sound = s.sound := rfl
@[simp] theorem State.beginStep_fb : s.beginStep.fb = s.fb := rfl
@[simp] theorem State.beginStep_keys : s.beginStep.keys = s.keys := rfl
@[simp] theorem State.beginStep_ci : s.beginStep.ci = s.ci := rfl
@[simp] theorem State.beginStep_halted : s.beginStep.halted = s.halted := rfl
@[simp] theorem State.beginStep_started : s.beginStep.started = true := rfl
@[simp] theorem State.beginStep_soundStop : s.beginStep.soundStop = false := rfl
@[simp] theorem State.beginStep_draws : s.beginStep.draws = s.draws := rfl
@[simp] theorem State.beginStep_cfg : s.beginStep.cfg = s.cfg := rfl
@[simp] theorem State.beginStep_reg (q : Reg) : s.beginStep.reg q = s.reg q := rfl
@[simp] theorem State.beginStep_readByte (b : Nat) : s.beginStep.readByte b = s.readByte b := rfl
@[simp] theorem State.beginStep_pixel (row : Fin 32) (col : Fin 64) : s.beginStep.pixel row col = s.pixel row col := rfl
@[simp] theorem State.beginStep_keyDown (k : Reg) : s.beginStep.keyDown k = s.keyDown k := rfl
@[simp] theorem State.beginStep_slot (j : Nat) : s.beginStep.slot j = s.slot j := rfl
@[simp] theorem State.beginStep_effAddr (j : Nat) : s.beginStep.effAddr j = s.effAddr j := rfl

@[simp] theorem State.raiseFetch_mem : s.raiseFetch.mem = s.mem := rfl
@[simp] theorem State.raiseFetch_regs : s.raiseFetch.regs = s.regs := rfl
@[simp] theorem State.raiseFetch_index : s.raiseFetch.index = s.index := rfl
@[simp] theorem State.raiseFetch_pc : s.raiseFetch.pc = s.pc := rfl
@[simp] theorem State.raiseFetch_stack : s.raiseFetch.stack = s.stack := rfl
@[simp] theorem State.raiseFetch_sp : s.raiseFetch.sp = s.sp := rfl
@[simp] theorem State.raiseFetch_delay : s.raiseFetch.delay = s.delay := rfl
@[simp] theorem State.raiseFetch_sound : s.raiseFetch.sound = s.sound := rfl
@[simp] theorem State.raiseFetch_fb : s.raiseFetch.fb = s.fb := rfl
@[simp] theorem State.raiseFetch_keys : s.raiseFetch.keys = s.keys := rfl
@[simp] theorem State.raiseFetch_ci : s.raiseFetch.ci = s.ci := rfl
@[simp] theorem State.raiseFetch_halted : s.raiseFetch.halted = some ⟨.fetchOutOfBounds, some s.pc, none, .none⟩ := rfl
@[simp] theorem State.raiseFetch_started : s.raiseFetch.started = s.started := rfl
@[simp] theorem State.raiseFetch_soundStop : s.raiseFetch.soundStop = s.soundStop := rfl
@[simp] theorem State.raiseFetch_draws : s.raiseFetch.draws = s.draws := rfl
@[simp] theorem State.raiseFetch_cfg : s.raiseFetch.cfg = s.cfg := rfl
@[simp] theorem State.raiseFetch_reg (q : Reg) : s.raiseFetch.reg q = s.reg q := rfl
@[simp] theorem State.raiseFetch_readByte (b : Nat) : s.raiseFetch.readByte b = s.readByte b := rfl
@[simp] theorem State.raiseFetch_pixel (row : Fin 32) (col : Fin 64) : s.raiseFetch.pixel row col = s.pixel row col := rfl
@[simp] theorem State.raiseFetch_keyDown (k : Reg) : s.raiseFetch.keyDown k = s.keyDown k := rfl
@[simp] theorem State.raiseFetch_slot (j : Nat) : s.raiseFetch.slot j = s.slot j := rfl
@[simp] theorem State.raiseFetch_effAddr (j : Nat) : s.raiseFetch.effAddr j = s.effAddr j := rfl

@[simp] theorem State.fetch_mem : s.fetch.mem = s.mem := rfl
@[simp] theorem State.fetch_regs : s.fetch.regs = s.regs := rfl
@[simp] theorem State.fetch_index : s.fetch.index = s.index := rfl
@[simp] theorem State.fetch_pc : s.fetch.pc = s.pc + 2 := rfl
@[simp] theorem State.fetch_stack : s.fetch.stack = s.stack := rfl
@[simp] theorem State.fetch_sp : s.fetch.sp = s.sp := rfl
@[simp] theorem State.fetch_delay : s.fetch.delay = s.delay := rfl
@[simp] theorem State.fetch_sound : s.fetch.sound = s.sound := rfl
@[simp] theorem State.fetch_fb : s.fetch.fb = s.fb := rfl
@[simp] theorem State.fetch_keys : s.fetch.keys = s.keys := rfl
@[simp] theorem State.fetch_ci : s.fetch.ci = s.fetch16 s.pc.toNat := rfl
@[simp] theorem State.fetch_halted : s.fetch.halted = s.halted := rfl
@[simp] theorem State.fetch_started : s.fetch.started = s.started := rfl
@[simp] theorem State.fetch_soundStop : s.fetch.soundStop = s.soundStop := rfl
@[simp] theorem State.fetch_draws : s.fetch.draws = s.draws := rfl
@[simp] theorem State.fetch_cfg : s.fetch.cfg = s.cfg := rfl
@[simp] theorem State.fetch_reg (q : Reg) : s.fetch.reg q = s.reg q := rfl
@[simp] theorem State.fetch_readByte (b : Nat) : s.fetch.readByte b = s.readByte b := rfl
@[simp] theorem State.fetch_pixel (row : Fin 32) (col : Fin 64) : s.fetch.pixel row col = s.pixel row col := rfl
@[simp] theorem State.fetch_keyDown (k : Reg) : s.fetch.keyDown k = s.keyDown k := rfl
@[simp] theorem State.fetch_slot (j : Nat) : s.fetch.slot j = s.slot j := rfl
@[simp] theorem State.fetch_effAddr (j : Nat) : s.fetch.effAddr j = s.effAddr j := rfl

@[simp] theorem State.tick_mem : s.tick.mem = s.mem := rfl
@[simp] theorem State.tick_regs : s.tick.regs = s.regs := rfl
@[simp] theorem State.tick_index : s.tick.index = s.index := rfl
@[simp] theorem State.tick_pc : s.tick.pc = s.pc := rfl
@[simp] theorem State.tick_stack : s.tick.stack = s.stack := rfl
@[simp] theorem State.tick_sp : s.tick.sp = s.sp := rfl
@[simp] theorem State.tick_delay : s.tick.delay = tickDown s.delay := rfl
@[simp] theorem State.tick_sound : s.tick.sound = tickDown s.sound := rfl
@[simp] theorem State.tick_fb : s.tick.fb = s.fb := rfl
@[simp] theorem State.tick_keys : s.tick.keys = s.keys := rfl
@[simp] theorem State.tick_ci : s.tick.ci = s.ci := rfl
@[simp] theorem State.tick_halted : s.tick.halted = s.halted := rfl
@[simp] theorem State.tick_started : s.tick.started = s.started := rfl
@[simp] theorem State.tick_soundStop : s.tick.soundStop = decide (s.sound = 1) := rfl
@[simp] theorem State.tick_draws : s.tick.draws = s.draws := rfl
@[simp] theorem State.tick_cfg : s.tick.cfg = s.cfg := rfl
@[simp] theorem State.tick_reg (q : Reg) : s.tick.reg q = s.reg q := rfl
@[simp] theorem State.tick_readByte (b : Nat) : s.tick.readByte b = s.readByte b := rfl
@[simp] theorem State.tick_pixel (row : Fin 32) (col : Fin 64) : s.tick.pixel row col = s.pixel row col := rfl
@[simp] theorem State.tick_keyDown (k : Reg) : s.tick.keyDown k = s.keyDown k := rfl
@[simp] theorem State.tick_slot (j : Nat) : s.tick.slot j = s.slot j := rfl
@[simp] theorem State.tick_effAddr (j : Nat) : s.tick.effAddr j = s.effAddr j := rfl

@[simp] theorem State.reinit_mem : s.reinit.mem = [] := rfl
@[simp] theorem State.reinit_regs : s.reinit.regs = Vector.replicate 16 0 := rfl
@[simp] theorem State.reinit_index : s.reinit.index = 0 := rfl
@[simp] theorem State.reinit_pc : s.reinit.pc = 0x200 := rfl
@[simp] theorem State.reinit_stack : s.reinit.stack = Vector.replicate 16 0 := rfl
@[simp] theorem State.reinit_sp : s.reinit.sp = 0 := rfl
@[simp] theorem State.reinit_delay : s.reinit.delay = 0 := rfl
@[simp] theorem State.reinit_sound : s.reinit.sound = 0 := rfl
@[simp] theorem State.reinit_fb : s.reinit.fb = Frame.clear := rfl
@[simp] theorem State.reinit_keys : s.reinit.keys = Vector.replicate 16 false := rfl
@[simp] theorem State.reinit_ci : s.reinit.ci = 0 := rfl
@[simp] theorem State.reinit_halted : s.reinit.halted = none := rfl
@[simp] theorem State.reinit_started : s.reinit.started = false := rfl
@[simp] theorem State.reinit_soundStop : s.reinit.soundStop = false := rfl
@[simp] theorem State.reinit_draws : s.reinit.draws = s.draws := rfl
@[simp] theorem State.reinit_cfg : s.reinit.cfg = s.cfg := rfl
@[simp] theorem State.reinit_readByte (b : Nat) : s.reinit.readByte b = unlisted s.cfg.glyphTable b := rfl

@[simp] theorem State.withKeys_mem (ks : Vector Bool 16) : (s.withKeys ks).mem = s.mem := rfl
@[simp] theorem State.withKeys_regs (ks : Vector Bool 16) : (s.withKeys ks).regs = s.regs := rfl
@[simp] theorem State.withKeys_index (ks : Vector Bool 16) : (s.withKeys ks).index = s.index := rfl
@[simp] theorem State.withKeys_pc (ks : Vector Bool 16) : (s.withKeys ks).pc = s.pc := rfl
@[simp] theorem State.withKeys_stack (ks : Vector Bool 16) : (s.withKeys ks).stack = s.stack := rfl
@[simp] theorem State.withKeys_sp (ks : Vector Bool 16) : (s.withKeys ks).sp = s.sp := rfl
@[simp] theorem State.withKeys_delay (ks : Vector Bool 16) : (s.withKeys ks).delay = s.delay := rfl
@[simp] theorem State.withKeys_sound (ks : Vector Bool 16) : (s.withKeys ks).sound = s.sound := rfl
@[simp] theorem State.withKeys_fb (ks : Vector Bool 16) : (s.withKeys ks).fb = s.fb := rfl
@[simp] theorem State.withKeys_keys (ks : Vector Bool 16) : (s.withKeys ks).keys = ks := rfl
@[simp] theorem State.withKeys_ci (ks : Vector Bool 16) : (s.withKeys ks).ci = s.ci := rfl
@[simp] theorem State.withKeys_halted (ks : Vector Bool 16) : (s.withKeys ks).halted = s.halted := rfl
@[simp] theorem State.withKeys_started (ks : Vector Bool 16) : (s.withKeys ks).started = s.started := rfl
@[simp] theorem State.withKeys_soundStop (ks : Vector Bool 16) : (s.withKeys ks).soundStop = s.soundStop := rfl
@[simp] theorem State.withKeys_draws (ks : Vector Bool 16) : (s.withKeys ks).draws = s.draws := rfl
@[simp] theorem State.withKeys_cfg (ks : Vector Bool 16) : (s.withKeys ks).cfg = s.cfg := rfl
@[simp] theorem State.withKeys_reg (ks : Vector Bool 16) (q : Reg) : (s.withKeys ks).reg q = s.reg q := rfl
@[simp] theorem State.withKeys_readByte (ks : Vector Bool 16) (b : Nat) : (s.withKeys ks).readByte b = s.readByte b := rfl
@[simp] theorem State.withKeys_pixel (ks : Vector Bool 16) (row : Fin 32) (col : Fin 64) : (s.withKeys ks).pixel row col = s.pixel row col := rfl
@[simp] theorem State.withKeys_slot (ks : Vector Bool 16) (j : Nat) : (s.withKeys ks).slot j = s.slot j := rfl
@[simp] theorem State.withKeys_effAddr (ks : Vector Bool 16) (j : Nat) : (s.withKeys ks).effAddr j = s.effAddr j := rfl

@[simp] theorem State.readyToFetch_mem : s.readyToFetch.mem = s.mem := rfl
@[simp] theorem State.readyToFetch_regs : s.readyToFetch.regs = s.regs := rfl
@[simp] theorem State.readyToFetch_index : s.readyToFetch.index = s.index := rfl
@[simp] theorem State.readyToFetch_pc : s.readyToFetch.pc = if s.fetchFails then 0x200 else s.pc := rfl
@[simp] theorem State.readyToFetch_stack : s.readyToFetch.stack = s.stack := rfl
@[simp] theorem State.readyToFetch_sp : s.readyToFetch.sp = s.sp := rfl
@[simp] theorem State.readyToFetch_delay : s.readyToFetch.delay = s.delay := rfl
@[simp] theorem State.readyToFetch_sound : s.readyToFetch.sound = s.sound := rfl
@[simp] theorem State.readyToFetch_fb : s.readyToFetch.fb = s.fb := rfl
@[simp] theorem State.readyToFetch_keys : s.readyToFetch.keys = s.keys := rfl
@[simp] theorem State.readyToFetch_ci : s.readyToFetch.ci = s.ci := rfl
@[simp] theorem State.readyToFetch_halted : s.readyToFetch.halted = none := rfl
@[simp] theorem State.readyToFetch_started : s.readyToFetch.started = s.started := rfl
@[simp] theorem State.readyToFetch_soundStop : s.readyToFetch.soundStop = s.soundStop := rfl
@[simp] theorem State.readyToFetch_draws : s.readyToFetch.draws = s.draws := rfl
@[simp] theorem State.readyToFetch_cfg : s.readyToFetch.cfg = s.cfg := rfl
@[simp] theorem State.readyToFetch_reg (q : Reg) : s.readyToFetch.reg q = s.reg q := rfl
@[simp] theorem State.readyToFetch_readByte (b : Nat) : s.readyToFetch.readByte b = s.readByte b := rfl
@[simp] theorem State.readyToFetch_pixel (row : Fin 32) (col : Fin 64) : s.readyToFetch.pixel row col = s.pixel row col := rfl
@[simp] theorem State.readyToFetch_keyDown (k : Reg) : s.readyToFetch.keyDown k = s.keyDown k := rfl
@[simp] theorem State.readyToFetch_slot (j : Nat) : s.readyToFetch.slot j = s.slot j := rfl
@[simp] theorem State.readyToFetch_effAddr (j : Nat) : s.readyToFetch.effAddr j = s.effAddr j := rfl

@[simp] theorem State.writeBytes_regs (a : Nat) (vs : List Byte) : (s.writeBytes a vs).regs = s.regs := by
  induction vs generalizing s a with
  | nil => rfl
  | cons v vs ih => simp [State.writeBytes, ih]
@[simp] theorem State.writeBytes_index (a : Nat) (vs : List Byte) : (s.writeBytes a vs).index = s.index := by
  induction vs generalizing s a with
  | nil => rfl
  | cons v vs ih => simp [State.writeBytes, ih]
@[simp] theorem State.writeBytes_pc (a : Nat) (vs : List Byte) : (s.writeBytes a vs).pc = s.pc := by
  induction vs generalizing s a with
  | nil => rfl
  | cons v vs ih => simp [State.writeBytes, ih]
@[simp] theorem State.writeBytes_stack (a : Nat) (vs : List Byte) : (s.writeBytes a vs).stack = s.stack := by
  induction vs generalizing s a with
  | nil => rfl
  | cons v vs ih => simp [State.writeBytes, ih]
@[simp] theorem State.writeBytes_sp (a : Nat) (vs : List Byte) : (s.writeBytes a vs).sp = s.sp := by
  induction vs generalizing s a with
  | nil => rfl
  | cons v vs ih => simp [State.writeBytes, ih]
@[simp] theorem State.writeBytes_delay (a : Nat) (vs : List Byte) : (s.writeBytes a vs).delay = s.delay := by
  induction vs generalizing s a with
  | nil => rfl
  | cons v vs ih => simp [State.writeBytes, ih]
@[simp] theorem State.writeBytes_sound (a : Nat) (vs : List Byte) : (s.writeBytes a vs).sound = s.sound := by
  induction vs generalizing s a with
  | nil => rfl
  | cons v vs ih => simp [State.writeBytes, ih]
@[simp] theorem State.writeBytes_fb (a : Nat) (vs : List Byte) : (s.writeBytes a vs).fb = s.fb := by
  induction vs generalizing s a with
  | nil => rfl
  | cons v vs ih => simp [State.writeBytes, ih]
@[simp] theorem State.writeBytes_keys (a : Nat) (vs : List Byte) : (s.writeBytes a vs).keys = s.keys := by
  induction vs generalizing s a with
  | nil => rfl
  | cons v vs ih => simp [State.writeBytes, ih]
@[simp] theorem State.writeBytes_ci (a : Nat) (vs : List Byte) : (s.writeBytes a vs).ci = s.ci := by
  induction vs generalizing s a with
  | nil => rfl
  | cons v vs ih => simp [State.writeBytes, ih]
@[simp] theorem State.writeBytes_halted (a : Nat) (vs : List Byte) : (s.writeBytes a vs).halted = s.halted := by
  induction vs generalizing s a with
  | nil => rfl
  | cons v vs ih => simp [State.writeBytes, ih]
@[simp] theorem State.writeBytes_started (a : Nat) (vs : List Byte) : (s.writeBytes a vs).started = s.started := by
  induction vs generalizing s a with
  | nil => rfl
  | cons v vs ih => simp [State.writeBytes, ih]
@[simp] theorem State.writeBytes_soundStop (a : Nat) (vs : List Byte) : (s.writeBytes a vs).soundStop = s.soundStop := by
  induction vs generalizing s a with
  | nil => rfl
  | cons v vs ih => simp [State.writeBytes, ih]
@[simp] theorem State.writeBytes_draws (a : Nat) (vs : List Byte) : (s.writeBytes a vs).draws = s.draws := by
  induction vs generalizing s a with
  | nil => rfl
  | cons v vs ih => simp [State.writeBytes, ih]
@[simp] theorem State.writeBytes_cfg (a : Nat) (vs : List Byte) : (s.writeBytes a vs).cfg = s.cfg := by
  induction vs generalizing s a with
  | nil => rfl
  | cons v vs ih => simp [State.writeBytes, ih]

@[simp] theorem State.loadFirstRegs_mem (k : Nat) : (s.loadFirstRegs k).mem = s.mem := by
  induction k with
  | zero => rfl
  | succ k ih => simp [State.loadFirstRegs, ih]
@[simp] theorem State.loadFirstRegs_index (k : Nat) : (s.loadFirstRegs k).index = s.index := by
  induction k with
  | zero => rfl
  | succ k ih => simp [State.loadFirstRegs, ih]
@[simp] theorem State.loadFirstRegs_pc (k : Nat) : (s.loadFirstRegs k).pc = s.pc := by
  induction k with
  | zero => rfl
  | succ k ih => simp [State.loadFirstRegs, ih]
@[simp] theorem State.loadFirstRegs_stack (k : Nat) : (s.loadFirstRegs k).stack = s.stack := by
  induction k with
  | zero => rfl
  | succ k ih => simp [State.loadFirstRegs, ih]
@[simp] theorem State.loadFirstRegs_sp (k : Nat) : (s.loadFirstRegs k).sp = s.sp := by
  induction k with
  | zero => rfl
  | succ k ih => simp [State.loadFirstRegs, ih]
@[simp] theorem State.loadFirstRegs_delay (k : Nat) : (s.loadFirstRegs k).delay = s.delay := by
  induction k with
  | zero => rfl
  | succ k ih => simp [State.loadFirstRegs, ih]
@[simp] theorem State.loadFirstRegs_sound (k : Nat) : (s.loadFirstRegs k).sound = s.sound := by
  induction k with
  | zero => rfl
  | succ k ih => simp [State.loadFirstRegs, ih]
@[simp] theorem State.loadFirstRegs_fb (k : Nat) : (s.loadFirstRegs k).fb = s.fb := by
  induction k with
  | zero => rfl
  | succ k ih => simp [State.loadFirstRegs, ih]
@[simp] theorem State.loadFirstRegs_keys (k : Nat) : (s.loadFirstRegs k).keys = s.keys := by
  induction k with
  | zero => rfl
  | succ k ih => simp [State.loadFirstRegs, ih]
@[simp] theorem State.loadFirstRegs_ci (k : Nat) : (s.loadFirstRegs k).ci = s.ci := by
  induction k with
  | zero => rfl
  | succ k ih => simp [State.loadFirstRegs, ih]
@[simp] theorem State.loadFirstRegs_halted (k : Nat) : (s.loadFirstRegs k).halted = s.halted := by
  induction k with
  | zero => rfl
  | succ k ih => simp [State.loadFirstRegs, ih]
@[simp] theorem State.loadFirstRegs_started (k : Nat) : (s.loadFirstRegs k).started = s.started := by
  induction k with
  | zero => rfl
  | succ k ih => simp [State.loadFirstRegs, ih]
@[simp] theorem State.loadFirstRegs_soundStop (k : Nat) : (s.loadFirstRegs k).soundStop = s.soundStop := by
  induction k with
  | zero => rfl
  | succ k ih => simp [State.loadFirstRegs, ih]
@[simp] theorem State.loadFirstRegs_draws (k : Nat) : (s.loadFirstRegs k).draws = s.draws := by
  induction k with
  | zero => rfl
  | succ k ih => simp [State.loadFirstRegs, ih]
@[simp] theorem State.loadFirstRegs_cfg (k : Nat) : (s.loadFirstRegs k).cfg = s.cfg := by
  induction k with
  | zero => rfl
  | succ k ih => simp [State.loadFirstRegs, ih]

/-- writeBytes changes memory and nothing else. -/
theorem State.writeBytes_frame (a : Nat) (vs : List Byte) :
    s.writeBytes a vs = { s with mem := (s.writeBytes a vs).mem } := by
  induction vs generalizing s a with
  | nil => rfl
  | cons v vs ih => rw [State.writeBytes, ih]; rfl

/-- loadFirstRegs changes the registers and nothing else. -/
theorem State.loadFirstRegs_frame (k : Nat) :
    s.loadFirstRegs k = { s with regs := (s.loadFirstRegs k).regs } := by
  induction k with
  | zero => rfl
  | succ k ih => rw [State.loadFirstRegs, ih]; rfl

/-- A register write changes the registers and nothing else. -/
theorem State.setReg_frame (r : Reg) (v : Byte) : s.setReg r v = { s with regs := (s.setReg r v).regs } := rfl

/-! ### Reading back what was written -/

/-- Reading a register after a register write. -/
@[simp] theorem State.setReg_reg (r q : Reg) (v : Byte) :
    (s.setReg r v).reg q = if r = q then v else s.reg q := by
  simp [State.reg, State.setReg, Vector.getElem_set, Fin.ext_iff]

/-- Reading a register after a flag write. -/
@[simp] theorem State.setFlag_reg (q : Reg) (v : Byte) :
    (s.setFlag v).reg q = if flagReg = q then v else s.reg q := State.setReg_reg s flagReg q v

/-- Two registers files with the same readings are the same. -/
theorem State.regs_ext {s t : State} (h : ∀ r, s.reg r = t.reg r) : s.regs = t.regs := by
  apply Vector.ext
  intro i hi
  exact h ⟨i, hi⟩

/-- Reading a pixel after a pixel write. -/
theorem Frame.pixel_setPixel (f : Frame) (row row' : Fin 32) (col col' : Fin 64) (b : Bool) :
    (Frame.setPixel f row col b).pixel row' col' = if row = row' ∧ col = col' then b else f.pixel row' col' := by
  simp only [Frame.pixel, Frame.setPixel, Vector.getElem_set, Fin.ext_iff]
  by_cases hr : row.val = row'.val
  · by_cases hc : col.val = col'.val
    · simp [hr, hc]
    · simp [hr, hc]
  · simp [hr]

/-- Two framebuffers with the same pixels are the same. -/
theorem Frame.ext_pixel {f g : Frame} (h : ∀ row col, f.pixel row col = g.pixel row col) : f = g := by
  apply Vector.ext
  intro i hi
  apply Vector.ext
  intro j hj
  exact h ⟨i, hi⟩ ⟨j, hj⟩

/-- Every pixel of the cleared framebuffer is off. -/
@[simp] theorem Frame.clear_pixel (row : Fin 32) (col : Fin 64) : Frame.clear.pixel row col = false := by
  simp [Frame.clear, Frame.pixel]

end Sys2Proof.Machine
end

