-- ==== Sys2Proof/Laws/Memory.lean ====
section
/-! SUPPORT. Memory: reading back what was written, and the canonical form that every operation keeps. -/

namespace Sys2Proof.Machine

variable (g : GlyphTable)

theorem Memory.lookup_put (m : List Host.Cell) (a b : Nat) (v : Byte) :
    Memory.lookup (Memory.put m a v) b = if a = b then some v else Memory.lookup m b := by
  induction m with
  | nil => simp [Memory.put, Memory.lookup]
  | cons c m ih =>
    obtain ⟨k, w⟩ := c
    simp only [Memory.put]
    split
    · simp [Memory.lookup]
    · split
      · next h => subst h; simp only [Memory.lookup]; split <;> rfl
      · next h => simp only [Memory.lookup, ih]; split <;> grind

theorem Memory.lookup_erase (m : List Host.Cell) (a b : Nat) :
    Memory.lookup (Memory.erase m a) b = if a = b then none else Memory.lookup m b := by
  induction m with
  | nil => simp [Memory.erase, Memory.lookup]
  | cons c m ih =>
    obtain ⟨k, w⟩ := c
    simp only [Memory.erase] at ih ⊢
    rw [List.filter_cons]
    split <;> (simp_all [Memory.lookup]; try grind)

/-- Reading any address after writing one. -/
theorem Memory.read_write (m : List Host.Cell) (a b : Nat) (v : Byte) :
    Memory.read g (Memory.write g m a v) b = if a = b ∧ a < 4096 then v else Memory.read g m b := by
  have hsize : memSize = 4096 := rfl
  unfold Memory.write
  split
  · next h => rw [if_neg (by omega)]
  · next h =>
    have ha : a < 4096 := by omega
    split
    · next hv => by_cases hab : a = b <;> simp [Memory.read, Memory.lookup_erase, hab, ha, hv]; grind
    · by_cases hab : a = b <;> simp [Memory.read, Memory.lookup_put, hab, ha]; grind

theorem Memory.wfFrom_cons (lo a : Nat) (v : Byte) (m : List Host.Cell) :
    Memory.wfFrom g lo ((a, v) :: m) = true ↔
      lo ≤ a ∧ a < memSize ∧ v ≠ unlisted g a ∧ Memory.wfFrom g (a + 1) m = true := by
  simp [Memory.wfFrom, and_assoc]

theorem Memory.wfFrom_mono {lo lo' : Nat} (h : lo' ≤ lo) {m : List Host.Cell} (hm : Memory.wfFrom g lo m = true) :
    Memory.wfFrom g lo' m = true := by
  cases m with
  | nil => rfl
  | cons c m =>
    rw [Memory.wfFrom_cons] at hm ⊢
    exact ⟨by omega, hm.2⟩

theorem Memory.wfFrom_erase {lo : Nat} {m : List Host.Cell} (a : Nat) (hm : Memory.wfFrom g lo m = true) :
    Memory.wfFrom g lo (Memory.erase m a) = true := by
  induction m generalizing lo with
  | nil => rfl
  | cons c m ih =>
    obtain ⟨k, w⟩ := c
    rw [Memory.wfFrom_cons] at hm
    have hk := ih hm.2.2.2
    simp only [Memory.erase] at hk ⊢
    rw [List.filter_cons]
    split
    · rw [Memory.wfFrom_cons]; exact ⟨hm.1, hm.2.1, hm.2.2.1, hk⟩
    · exact Memory.wfFrom_mono g (by omega) hk

theorem Memory.wfFrom_put {lo : Nat} {m : List Host.Cell} {a : Nat} {v : Byte} (hlo : lo ≤ a) (ha : a < memSize)
    (hv : v ≠ unlisted g a) (hm : Memory.wfFrom g lo m = true) : Memory.wfFrom g lo (Memory.put m a v) = true := by
  induction m generalizing lo with
  | nil => simp [Memory.put, hlo, ha, hv, Memory.wfFrom]
  | cons c m ih =>
    obtain ⟨k, w⟩ := c
    obtain ⟨h1, h2, h3, h4⟩ := (Memory.wfFrom_cons g lo k w m).1 hm
    simp only [Memory.put]
    split
    · next h => exact (Memory.wfFrom_cons ..).2 ⟨hlo, ha, hv, (Memory.wfFrom_cons ..).2 ⟨h, h2, h3, h4⟩⟩
    · split
      · next h => subst h; exact (Memory.wfFrom_cons ..).2 ⟨hlo, ha, hv, h4⟩
      · next h h' => exact (Memory.wfFrom_cons ..).2 ⟨h1, h2, h3, ih (by omega) h4⟩

/-- A write keeps the canonical form. -/
theorem Memory.wf_write {m : List Host.Cell} (a : Nat) (v : Byte) (hm : Memory.wf g m = true) :
    Memory.wf g (Memory.write g m a v) = true := by
  unfold Memory.write
  split
  · exact hm
  · split
    · exact Memory.wfFrom_erase g a hm
    · next ha hv => exact Memory.wfFrom_put g (Nat.zero_le _) (by omega) hv hm

theorem Memory.lookup_below {lo : Nat} {m : List Host.Cell} (hm : Memory.wfFrom g lo m = true) {a : Nat} (ha : a < lo) :
    Memory.lookup m a = none := by
  induction m generalizing lo with
  | nil => rfl
  | cons c m ih =>
    obtain ⟨k, w⟩ := c
    obtain ⟨h1, -, -, h4⟩ := (Memory.wfFrom_cons g lo k w m).1 hm
    rw [Memory.lookup, if_neg (by omega)]
    exact ih h4 (by omega)

theorem Memory.lookup_ne {lo : Nat} {m : List Host.Cell} (hm : Memory.wfFrom g lo m = true) {a : Nat} {v : Byte}
    (h : Memory.lookup m a = some v) : v ≠ unlisted g a := by
  induction m generalizing lo with
  | nil => simp [Memory.lookup] at h
  | cons c m ih =>
    obtain ⟨k, w⟩ := c
    obtain ⟨-, -, h3, h4⟩ := (Memory.wfFrom_cons g lo k w m).1 hm
    rw [Memory.lookup] at h
    split at h
    · next hk => subst hk; cases h; exact h3
    · exact ih h4 h

/-- In canonical form, what an address lists is determined by how it reads. -/
theorem Memory.lookup_eq_of_read_eq {lo : Nat} {m m' : List Host.Cell} (hm : Memory.wfFrom g lo m = true)
    (hm' : Memory.wfFrom g lo m' = true) {a : Nat} (h : Memory.read g m a = Memory.read g m' a) :
    Memory.lookup m a = Memory.lookup m' a := by
  simp only [Memory.read] at h
  cases h1 : Memory.lookup m a with
  | none =>
    cases h2 : Memory.lookup m' a with
    | none => rfl
    | some v => rw [h1, h2] at h; exact absurd h.symm (Memory.lookup_ne g hm' h2)
  | some v =>
    cases h2 : Memory.lookup m' a with
    | none => rw [h1, h2] at h; exact absurd h (Memory.lookup_ne g hm h1)
    | some w => rw [h1, h2] at h; simp_all

theorem Memory.ext_lookup {lo : Nat} {m m' : List Host.Cell} (hm : Memory.wfFrom g lo m = true)
    (hm' : Memory.wfFrom g lo m' = true) (h : ∀ a, Memory.lookup m a = Memory.lookup m' a) : m = m' := by
  induction m generalizing lo m' with
  | nil =>
    cases m' with
    | nil => rfl
    | cons c m' => have := h c.1; simp [Memory.lookup] at this
  | cons c m ih =>
    obtain ⟨k, w⟩ := c
    cases m' with
    | nil => have := h k; simp [Memory.lookup] at this
    | cons c' m' =>
      obtain ⟨k', w'⟩ := c'
      obtain ⟨a1, a2, a3, a4⟩ := (Memory.wfFrom_cons g lo k w m).1 hm
      obtain ⟨b1, b2, b3, b4⟩ := (Memory.wfFrom_cons g lo k' w' m').1 hm'
      have hk : k = k' := by
        rcases Nat.lt_trichotomy k k' with hlt | heq | hgt
        · have := h k
          simp only [Memory.lookup, if_true, if_neg (show ¬k' = k by omega)] at this
          rw [Memory.lookup_below g b4 (by omega)] at this
          cases this
        · exact heq
        · have := h k'
          simp only [Memory.lookup, if_true, if_neg (show ¬k = k' by omega)] at this
          rw [Memory.lookup_below g a4 (by omega)] at this
          cases this
      subst hk
      have hw := h k
      simp only [Memory.lookup, if_true] at hw
      cases hw
      congr 1
      refine ih a4 b4 fun a => ?_
      have := h a
      simp only [Memory.lookup] at this
      split at this
      · next e =>
        rw [Memory.lookup_below g a4 (by omega), Memory.lookup_below g b4 (by omega)]
      · exact this

/-- Two memories in canonical form that read alike are the same list. -/
theorem Memory.ext_read {m m' : List Host.Cell} (hm : Memory.wf g m = true) (hm' : Memory.wf g m' = true)
    (h : ∀ a, Memory.read g m a = Memory.read g m' a) : m = m' :=
  Memory.ext_lookup g hm hm' fun a => Memory.lookup_eq_of_read_eq g hm hm' (h a)

/-! ### The same for the state's operations -/

variable (s : State)

/-- Reading a byte after writing one. -/
theorem State.readByte_writeByte (a b : Nat) (v : Byte) :
    (s.writeByte a v).readByte b = if a = b ∧ a < 4096 then v else s.readByte b :=
  Memory.read_write s.cfg.glyphTable s.mem a b v

/-- Reading a byte after writing consecutive ones. -/
theorem State.readByte_writeBytes (a b : Nat) (vs : List Byte) :
    (s.writeBytes a vs).readByte b =
      if a ≤ b ∧ b < a + vs.length ∧ b < 4096 then (vs[b - a]?).getD 0 else s.readByte b := by
  induction vs generalizing s a with
  | nil => rw [State.writeBytes, if_neg (by simp; omega)]
  | cons v vs ih =>
    rw [State.writeBytes, ih, State.readByte_writeByte]
    by_cases hab : a = b
    · subst hab
      by_cases ha : a < 4096 <;> simp [ha]
    · by_cases h1 : a + 1 ≤ b ∧ b < a + 1 + vs.length ∧ b < 4096
      · rw [if_pos h1, if_pos (by simp; omega)]
        obtain ⟨k, rfl⟩ : ∃ k, b = a + 1 + k := ⟨b - (a + 1), by omega⟩
        rw [show a + 1 + k - a = k + 1 by omega, show a + 1 + k - (a + 1) = k by omega]
        simp
      · rw [if_neg h1, if_neg (by omega), if_neg (by simp; omega)]

/-- Writing consecutive bytes keeps the canonical form. -/
theorem State.writeBytes_wf (a : Nat) (vs : List Byte) (h : Memory.wf s.cfg.glyphTable s.mem = true) :
    Memory.wf s.cfg.glyphTable (s.writeBytes a vs).mem = true := by
  induction vs generalizing s a with
  | nil => exact h
  | cons v vs ih => exact ih (s.writeByte a v) (a + 1) (Memory.wf_write s.cfg.glyphTable a v h)

/-- The registers after loading the first `k` of them from memory. -/
theorem State.loadFirstRegs_reg (k : Nat) (hk : k ≤ 16) (q : Reg) :
    (s.loadFirstRegs k).reg q = if q.val < k then s.readByte (s.index.toNat + q.val) else s.reg q := by
  induction k with
  | zero => simp [State.loadFirstRegs]
  | succ k ih =>
    rw [State.loadFirstRegs, State.setReg_reg, ih (by omega)]
    have hval : (Fin.ofNat 16 k).val = k := Nat.mod_eq_of_lt (by omega)
    by_cases hq : Fin.ofNat 16 k = q
    · rw [if_pos hq, if_pos (by rw [← hq, hval]; omega), ← hq, hval]
    · have : q.val ≠ k := fun e => hq (Fin.ext (by rw [hval, e]))
      rw [if_neg hq]
      by_cases h2 : q.val < k
      · rw [if_pos h2, if_pos (by omega)]
      · rw [if_neg h2, if_neg (by omega)]

/-- Reset memory is in canonical form. -/
theorem State.initial_wf (p : Params) : Memory.wf p.glyphTable (State.initial p).mem = true := rfl

end Sys2Proof.Machine
end

