-- ==== Sys2Proof/Laws/Operations.lean ====
section
/-! SUPPORT. One lemma per shared operation that says once everything it can do; later proofs cite these instead of unfolding
the operation. -/

namespace Sys2Proof.Machine

variable {s t : State}

/-! ### Checks -/

theorem State.mem_effAddrs {count a : Nat} : a ∈ s.effAddrs count ↔ ∃ k, k < count ∧ s.index.toNat + k = a := by
  simp [State.effAddrs, State.effAddr]

/-- Reads pass exactly when no address is above 0xFFF. -/
theorem readCheck_eq_none {l : List Nat} : readCheck l = none ↔ ∀ a ∈ l, a ≤ 0xFFF := by
  simp [readCheck]

/-- A failing read check reports an address of the list above 0xFFF. -/
theorem readCheck_eq_some {l : List Nat} {a : Nat} (h : readCheck l = some a) : a ∈ l ∧ 0xFFF < a :=
  ⟨List.mem_of_find?_eq_some h, by simpa using List.find?_some h⟩

theorem writeCheckOne_eq_none {p : LowProtect} {a : Nat} :
    writeCheckOne p a = none ↔ a ≤ 0xFFF ∧ protectedAddr p a = false := by
  unfold writeCheckOne
  split
  · simp; omega
  · split <;> simp_all

/-- Writes pass exactly when every address is in memory and none is protected. -/
theorem writeCheck_eq_none {p : LowProtect} {l : List Nat} :
    writeCheck p l = none ↔ ∀ a ∈ l, a ≤ 0xFFF ∧ protectedAddr p a = false := by
  induction l with
  | nil => simp [writeCheck]
  | cons a l ih =>
    rw [writeCheck]
    cases h : writeCheckOne p a with
    | none => simp [ih, writeCheckOne_eq_none.1 h]
    | some k =>
      simp only [reduceCtorEq, List.mem_cons, forall_eq_or_imp, false_iff, not_and]
      intro h'
      rw [writeCheckOne_eq_none.2 h'] at h
      cases h

/-- A failing write check reports the first failing address of the list and its kind. -/
theorem writeCheck_first {p : LowProtect} {l : List Nat} {k : Nat} {kind : FaultKind} (hk : k < l.length)
    (hpass : ∀ j (hj : j < k), writeCheckOne p l[j] = none) (hfail : writeCheckOne p l[k] = some kind) :
    writeCheck p l = some (kind, l[k]) := by
  induction l generalizing k with
  | nil => simp at hk
  | cons a l ih =>
    cases k with
    | zero => simp only [List.getElem_cons_zero] at hfail ⊢; simp [writeCheck, hfail]
    | succ k =>
      have h0 : writeCheckOne p a = none := hpass 0 (by omega)
      simp only [writeCheck, h0, List.getElem_cons_succ]
      exact ih (by simpa using hk) (fun j hj => by simpa using hpass (j + 1) (by omega)) hfail

/-- Reads at `I` pass when the last address is in memory. -/
theorem State.readCheck_pass {n : Nat} (h : n = 0 ∨ s.index.toNat + n - 1 ≤ 0xFFF) :
    readCheck (s.effAddrs n) = none := by
  rw [readCheck_eq_none]
  intro a ha
  obtain ⟨k, hk, rfl⟩ := State.mem_effAddrs.1 ha
  omega

/-- Reads at `I` fail, with the first address above 0xFFF, when the last address is not in memory. -/
theorem State.readCheck_fail {n : Nat} (hn : 1 ≤ n) (h : 0xFFF < s.index.toNat + n - 1) :
    readCheck (s.effAddrs n) = some (max s.index.toNat 0x1000) := by
  unfold readCheck
  rw [List.find?_eq_some_iff_getElem]
  refine ⟨by simp, max s.index.toNat 0x1000 - s.index.toNat, by simp [State.effAddrs]; omega, ?_, ?_⟩
  · simp [State.effAddrs, State.effAddr]
  · intro j hj; simp [State.effAddrs, State.effAddr]; omega

/-! ### The stored registers -/

theorem State.firstRegs_length (x : Reg) : (s.firstRegs x).length = x.val + 1 := by
  simp [State.firstRegs, allRegs]; omega

theorem State.firstRegs_getElem? {x r : Reg} (h : r ≤ x) : (s.firstRegs x)[r.val]? = some (s.reg r) := by
  have hr : ∀ r : Reg, allRegs[r.val]? = some r := by decide
  have hx : r.val < x.val + 1 := Nat.lt_succ_of_le h
  simp [State.firstRegs, hr, hx]

/-! ### Outcomes: what each shared operation answers -/

/-- A skip answers a next state whatever the condition. -/
theorem skipIf_eq (c : Bool) : skipIf c s = .next (s.setPc (if c then s.pc + 2 else s.pc)) := by
  cases c <;> rfl

theorem skipIf_next {c : Bool} (h : skipIf c s = .next t) : t = s.setPc (if c then s.pc + 2 else s.pc) := by
  rw [skipIf_eq] at h; cases h; rfl

theorem raiseFault_next {k : FaultKind} {d : FaultDetail} (h : raiseFault k d s = .next t) : t = s.raise k d := by
  cases h; rfl

/-- A store either latches the first failing check or stores every byte. -/
theorem storeAtIndex_next {bytes : List Byte} (h : storeAtIndex bytes s = .next t) :
    (∃ k a, writeCheck s.cfg.protectLow (s.effAddrs bytes.length) = some (k, a) ∧ t = s.raise k (.address a)) ∨
    (writeCheck s.cfg.protectLow (s.effAddrs bytes.length) = none ∧ t = s.writeBytes s.index.toNat bytes) := by
  unfold storeAtIndex at h
  split at h
  · next k a hc => exact .inl ⟨k, a, hc, raiseFault_next h⟩
  · next hc => cases h; exact .inr ⟨hc, rfl⟩

/-- A read either latches the first address above 0xFFF or runs the effect. -/
theorem withReads_next {count : Nat} {effect : State → Result} (h : withReads s count effect = .next t) :
    (∃ a, readCheck (s.effAddrs count) = some a ∧ t = s.raise .memoryOutOfBounds (.address a)) ∨
    (readCheck (s.effAddrs count) = none ∧ effect s = .next t) := by
  unfold withReads at h
  split at h
  · next a hc => exact .inl ⟨a, hc, raiseFault_next h⟩
  · next hc => exact .inr ⟨hc, h⟩

/-- A key access either latches the index or runs the effect with the key. -/
theorem withKey_next {x : Reg} {effect : Reg → State → Result} (h : withKey x s effect = .next t) :
    (keyOf (s.reg x) = none ∧ t = s.raise .keyIndexOutOfRange (.keyIndex (s.reg x).toNat)) ∨
    (∃ k, keyOf (s.reg x) = some k ∧ effect k s = .next t) := by
  unfold withKey at h
  split at h
  · next k hk => exact .inr ⟨k, hk, h⟩
  · next hk => exact .inl ⟨hk, raiseFault_next h⟩

/-- A draw latches a memory fault, or latches a screen-edge fault, or draws. -/
theorem drawAt_next {ox oy n : Nat} (h : drawAt ox oy n s = .next t) :
    (∃ a, readCheck (s.effAddrs n) = some a ∧ t = s.raise .memoryOutOfBounds (.address a)) ∨
    (readCheck (s.effAddrs n) = none ∧
      ((∃ c r, edgeCheck s.cfg.drawEdge ox oy (s.setBits n) = some (c, r) ∧ t = s.raise .drawOutOfBounds (.pixel c r)) ∨
       (edgeCheck s.cfg.drawEdge ox oy (s.setBits n) = none ∧ t = s.drawSprite ox oy n))) := by
  rcases withReads_next h with ⟨a, ha, rfl⟩ | ⟨hc, h⟩
  · exact .inl ⟨a, ha, rfl⟩
  · refine .inr ⟨hc, ?_⟩
    split at h
    · next c r he => exact .inl ⟨c, r, he, raiseFault_next h⟩
    · next he => cases h; exact .inr ⟨he, rfl⟩

/-- Drawing changes the framebuffer and `reg[0xF]`. -/
theorem State.drawSprite_frame (ox oy n : Nat) :
    s.drawSprite ox oy n = { s with fb := (s.drawSprite ox oy n).fb, regs := (s.drawSprite ox oy n).regs } := rfl

/-- A register byte names a key exactly when it is below 16. -/
theorem keyOf_eq_none {v : Byte} : keyOf v = none ↔ 16 ≤ v.toNat := by
  unfold keyOf; split <;> simp <;> omega

theorem keyOf_eq_some {v : Byte} {k : Reg} : keyOf v = some k ↔ v.toNat = k.val := by
  unfold keyOf
  split
  · simp [Fin.ext_iff]
  · have := k.isLt; simp; omega

/-- The lowest key: it is down and no lower one is. -/
theorem State.lowestKey_eq_some {k : Reg} :
    s.lowestKey = some k ↔ s.keyDown k = true ∧ ∀ j, j < k → s.keyDown j = false := by
  unfold State.lowestKey allRegs
  constructor
  · intro h
    simp only [List.find?_cons] at h
    refine ⟨?_, ?_⟩
    · repeat' split at h
      all_goals first | (cases h; assumption) | cases h
    · intro j hj
      repeat' split at h
      all_goals try cases h
      all_goals (fin_cases j <;> first | (exact absurd hj (by decide)) | simp_all)
  · rintro ⟨h1, h2⟩
    simp only [List.find?_cons]
    fin_cases k <;> simp_all

theorem State.lowestKey_eq_none : s.lowestKey = none ↔ ∀ k, s.keyDown k = false := by
  unfold State.lowestKey allRegs
  rw [List.find?_eq_none]
  constructor
  · intro h k
    have := h k (by fin_cases k <;> simp)
    simpa using this
  · intro h k _
    simp [h k]

/-! ### The step -/

/-- A handler's state at the end of its step: as it is when it raised, ticked otherwise. -/
theorem State.endStep_cases (s : State) :
    (∃ r, s.halted = some r ∧ s.endStep = s) ∨ (s.halted = none ∧ s.endStep = s.tick) := by
  cases h : s.halted with
  | none => exact .inr ⟨rfl, by simp [State.endStep, h]⟩
  | some r => exact .inl ⟨r, rfl, by simp [State.endStep, h]⟩

theorem afterExec_next {o : Result} (h : afterExec o = .next t) : ∃ u, o = .next u ∧ t = u.endStep := by
  cases o with
  | next u => cases h; exact ⟨u, rfl, rfl⟩
  | fault r => cases h
  | refused r => cases h

/-- Everything a step that answers a next state can have done. -/
theorem step_next (h : step s = .next t) :
    s.halted = none ∧
    ((0xFFE < s.pc.toNat ∧ t = s.beginStep.raiseFetch) ∨
     (s.pc.toNat ≤ 0xFFE ∧ ∃ e, s.fetched.decoded = .error e ∧ t = s.fetched.raise .unknownInstruction .none) ∨
     (s.pc.toNat ≤ 0xFFE ∧ ∃ i u, s.fetched.decoded = .ok i ∧ exec i s.fetched = .next u ∧ t = u.endStep)) := by
  unfold step at h
  split at h
  · cases h
  · next hh =>
    refine ⟨hh, ?_⟩
    split at h
    · next hf => cases h; exact .inl ⟨by simpa [State.fetchFails] using hf, rfl⟩
    · next hf =>
      have hpc : s.pc.toNat ≤ 0xFFE := by simpa [State.fetchFails] using hf
      unfold State.decodeAndRun at h
      split at h
      · next i hi =>
        obtain ⟨u, hu, rfl⟩ := afterExec_next h
        exact .inr (.inr ⟨hpc, i, u, hi, hu, rfl⟩)
      · next e he => exact .inr (.inl ⟨hpc, e, he, raiseFault_next h⟩)

/-- A running core's step, before any case is decided. -/
theorem step_running (h : s.halted = none) :
    step s = if s.fetchFails then .next s.beginStep.raiseFetch else s.fetched.decodeAndRun := by
  simp only [step, h]

theorem State.fetchFails_eq_false : s.fetchFails = false ↔ s.pc.toNat ≤ 0xFFE := by
  simp [State.fetchFails]

theorem State.decodeAndRun_ok {i : Instr} (h : s.decoded = .ok i) : s.decodeAndRun = afterExec (exec i s) := by
  rw [State.decodeAndRun, h]

theorem State.decodeAndRun_error {e : DecodeError} (h : s.decoded = .error e) :
    s.decodeAndRun = .next (s.raise .unknownInstruction .none) := by
  rw [State.decodeAndRun, h]; rfl

/-- Decoding after the fetch is decoding the word at `pc`. -/
theorem State.fetched_decoded (s : State) : s.fetched.decoded = s.nextInstr := rfl

/-- The model's tick is the spec's clamped decrement. -/
theorem tickDown_eq (v : Byte) : tickDown v = clampedDown v := by revert v; decide

/-- The number of a two-byte word. -/
theorem wordOfBytes_toNat (hi lo : Byte) : (wordOfBytes hi lo).toNat = hi.toNat * 256 + lo.toNat := by
  simp [wordOfBytes]; omega

/-- `fetched` spelled out. -/
theorem State.fetched_eq (s : State) : s.fetched =
    { s with started := true, soundStop := false, ci := s.fetch16 s.pc.toNat, pc := s.pc + 2 } := rfl

end Sys2Proof.Machine
end

