-- ==== Sys2Proof/Laws/Display.lean ====
section
/-! SUPPORT. Drawing, pixel by pixel: what xorPixels does to each pixel and which pixels a sprite hits. -/

namespace Sys2Proof.Machine

/-- XORing a list of distinct pixels: each listed pixel flips, every other one stays. -/
theorem xorPixels_pixel (ps : List (Fin 32 × Fin 64)) (hps : ps.Nodup) (f : Frame) (b : Bool) (row : Fin 32)
    (col : Fin 64) : Frame.pixel (xorPixels f b ps).1 row col = (f.pixel row col ^^ decide ((row, col) ∈ ps)) := by
  induction ps generalizing f b with
  | nil => simp [xorPixels]
  | cons p ps ih =>
    obtain ⟨hp, hps⟩ := List.nodup_cons.1 hps
    rw [xorPixels, ih hps, Frame.pixel_setPixel]
    by_cases h : p = (row, col)
    · subst h; simp [hp]
    · have h' : ¬(p.1 = row ∧ p.2 = col) := fun e => h (Prod.ext e.1 e.2)
      rw [if_neg h']
      simp [List.mem_cons, Ne.symm h]

/-- The collision flag of a list of distinct pixels: whether one of them was on. -/
theorem xorPixels_collision (ps : List (Fin 32 × Fin 64)) (hps : ps.Nodup) (f : Frame) (b : Bool) :
    (xorPixels f b ps).2 = true ↔ b = true ∨ ∃ p ∈ ps, f.pixel p.1 p.2 = true := by
  induction ps generalizing f b with
  | nil => simp [xorPixels]
  | cons p ps ih =>
    obtain ⟨hp, hps⟩ := List.nodup_cons.1 hps
    rw [xorPixels, ih hps]
    have key : ∀ q ∈ ps, Frame.pixel (f.setPixel p.1 p.2 (!f.pixel p.1 p.2)) q.1 q.2 = f.pixel q.1 q.2 := by
      intro q hq
      rw [Frame.pixel_setPixel, if_neg]
      rintro ⟨h1, h2⟩
      exact hp (Prod.ext h1 h2 ▸ hq)
    simp only [Bool.or_eq_true, List.mem_cons, exists_eq_or_imp, or_assoc]
    refine or_congr_right (or_congr_right ⟨?_, ?_⟩)
    · rintro ⟨q, hq, h⟩; exact ⟨q, hq, key q hq ▸ h⟩
    · rintro ⟨q, hq, h⟩; exact ⟨q, hq, (key q hq).symm ▸ h⟩

/-- The set bits of a sprite. -/
theorem State.mem_setBits {s : State} {n r c : Nat} :
    (r, c) ∈ s.setBits n ↔ r < n ∧ c < 8 ∧ s.spriteBit r c = true := by
  simp only [State.setBits, spritePlaces, List.mem_filter, List.mem_flatMap, List.mem_map, List.mem_range,
    Prod.mk.injEq]
  constructor
  · rintro ⟨⟨a, ha, b, hb, rfl, rfl⟩, h⟩; exact ⟨ha, hb, h⟩
  · rintro ⟨ha, hb, h⟩; exact ⟨⟨r, ha, c, hb, rfl, rfl⟩, h⟩

/-- The hit pixels of a sprite are those `State.hits` names. -/
theorem State.mem_hitPixels {s : State} {ox oy n : Nat} {row : Fin 32} {col : Fin 64} :
    (row, col) ∈ hitPixels s.cfg.drawEdge ox oy (s.setBits n) ↔ s.hits ox oy n row col := by
  simp only [hitPixels, List.mem_filterMap, State.hits]
  constructor
  · rintro ⟨⟨r, c⟩, hm, ht⟩
    obtain ⟨h1, h2, h3⟩ := State.mem_setBits.1 hm
    exact ⟨r, c, h1, h2, h3, ht⟩
  · rintro ⟨r, c, h1, h2, h3, ht⟩
    exact ⟨(r, c), State.mem_setBits.2 ⟨h1, h2, h3⟩, ht⟩

theorem spritePlaces_nodup (n : Nat) : (spritePlaces n).Nodup := by
  rw [spritePlaces, List.nodup_flatMap]
  refine ⟨fun r _ => ?_, ?_⟩
  · exact (List.nodup_range).map fun a b h => by simpa using h
  · refine List.Pairwise.imp ?_ (List.nodup_range (n := n))
    intro a b hab
    simp only [Function.onFun, List.disjoint_left, List.mem_map]
    rintro x ⟨c, -, rfl⟩ ⟨c', -, h⟩
    exact hab (by simpa using congrArg Prod.fst h.symm)

/-- Two places of a sprite of at most 32 rows that hit the same pixel are the same place (43_display.md R172: "no sprite can
overlap itself"). -/
theorem target_inj {mode : EdgeMode} {ox oy c c' r r' : Nat} {p : Fin 32 × Fin 64} (hc : c < 8) (hc' : c' < 8)
    (hr : r < 32) (hr' : r' < 32) (h : target mode (ox + c) (oy + r) = some p)
    (h' : target mode (ox + c') (oy + r') = some p) : r = r' ∧ c = c' := by
  have key : ∀ {a b : Nat}, target mode a b = some p → p = (Fin.ofNat 32 b, Fin.ofNat 64 a) := by
    intro a b hab
    cases mode <;> simp only [target] at hab <;> (try split at hab) <;> simp_all
  have e := (key h).symm.trans (key h')
  simp only [Prod.mk.injEq, Fin.ext_iff, Fin.ofNat] at e
  omega

/-- The hit pixels of a well-formed sprite are distinct. -/
theorem State.hitPixels_nodup (s : State) (mode : EdgeMode) (ox oy n : Nat) (hn : n ≤ 32) :
    (hitPixels mode ox oy (s.setBits n)).Nodup := by
  rw [hitPixels, List.Nodup, List.pairwise_filterMap]
  refine List.Pairwise.imp_of_mem ?_ ((spritePlaces_nodup n).filter _)
  rintro ⟨r, c⟩ ⟨r', c'⟩ hm hm' hne p hp q hq rfl
  obtain ⟨h1, h2, -⟩ := State.mem_setBits.1 hm
  obtain ⟨h1', h2', -⟩ := State.mem_setBits.1 hm'
  obtain ⟨rfl, rfl⟩ := target_inj h2 h2' (by omega) (by omega) hp hq
  exact hne rfl

/-- Each pixel after drawing: flipped where the sprite hits, as before elsewhere. -/
theorem State.drawSprite_pixel (s : State) (ox oy n : Nat) (hn : n ≤ 32) (row : Fin 32) (col : Fin 64) :
    (s.drawSprite ox oy n).pixel row col = true ↔ (s.hits ox oy n row col ↔ ¬s.pixel row col = true) := by
  show Frame.pixel (xorPixels s.fb false _).1 row col = true ↔ _
  rw [xorPixels_pixel _ (State.hitPixels_nodup s _ ox oy n hn), ← State.mem_hitPixels]
  show _ ↔ (_ ↔ ¬Frame.pixel s.fb row col = true)
  by_cases h : (row, col) ∈ hitPixels s.cfg.drawEdge ox oy (s.setBits n) <;> simp [h]

/-- The edge check fails in fault mode exactly when a set bit lands off the screen. -/
theorem State.edgeCheck_eq_none (s : State) (ox oy n : Nat) :
    edgeCheck s.cfg.drawEdge ox oy (s.setBits n) = none ↔ (s.cfg.drawEdge = .fault → ¬s.spillsOver ox oy n) := by
  cases h : s.cfg.drawEdge with
  | clip => simp [edgeCheck]
  | wrap => simp [edgeCheck]
  | fault =>
    simp only [edgeCheck, List.find?_eq_none, List.mem_map, State.spillsOver, forall_const]
    constructor
    · rintro hf ⟨r, c, h1, h2, h3, h4⟩
      refine hf _ ⟨(r, c), State.mem_setBits.2 ⟨h1, h2, h3⟩, rfl⟩ ?_
      simpa [offScreen] using h4
    · rintro hf _ ⟨⟨r, c⟩, hm, rfl⟩ hoff
      obtain ⟨h1, h2, h3⟩ := State.mem_setBits.1 hm
      exact hf ⟨r, c, h1, h2, h3, by simpa [offScreen] using hoff⟩

end Sys2Proof.Machine
end

