-- ==== Sys2Proof/Laws/Exec.lean ====
section
/-! SUPPORT. Everything an instruction can do when exec answers a next state, said once for all 34: its own effect, or a fault latched
under its condition. Claims over all instructions start from `exec_next` and unfold no meaning. -/

namespace Sys2Proof.Machine

/-- The outcomes of each instruction, in the named operations. -/
def Outcomes (i : Instr) (s t : State) : Prop :=
  match i with
  | .clearScreen => t = s.setFrame Frame.clear
  | .ret => (s.sp = 0 ∧ t = s.raise .stackUnderflow (.stackPointer 0)) ∨ (s.sp ≠ 0 ∧ t = s.popPc)
  | .jump nnn => t = s.setPc (nnn.setWidth 16)
  | .call nnn => (s.sp = 16 ∧ t = s.raise .stackOverflow (.stackPointer 16)) ∨
      (s.sp ≠ 16 ∧ t = (s.push s.pc).setPc (nnn.setWidth 16))
  | .skipEqImm x kk => t = s.setPc (if s.reg x = kk then s.pc + 2 else s.pc)
  | .skipNeImm x kk => t = s.setPc (if s.reg x ≠ kk then s.pc + 2 else s.pc)
  | .skipEqReg x y => t = s.setPc (if s.reg x = s.reg y then s.pc + 2 else s.pc)
  | .skipNeReg x y => t = s.setPc (if s.reg x ≠ s.reg y then s.pc + 2 else s.pc)
  | .loadImm x kk => t = s.setReg x kk
  | .addImm x kk => t = s.setReg x (s.reg x + kk)
  | .loadReg x y => t = s.setReg x (s.reg y)
  | .orReg x y => t = s.setReg x (s.reg x ||| s.reg y)
  | .andReg x y => t = s.setReg x (s.reg x &&& s.reg y)
  | .xorReg x y => t = s.setReg x (s.reg x ^^^ s.reg y)
  | .addReg x y => t = (s.setFlag (carryFlag (s.reg x) (s.reg y))).setReg x (s.reg x + s.reg y)
  | .sub x y => ∃ u, u = s.setFlag (greaterFlag (s.reg x) (s.reg y)) ∧ t = u.setReg x (u.reg x - u.reg y)
  | .shr x => ∃ u, u = s.setFlag (lsbFlag (s.reg x)) ∧ t = u.setReg x (u.reg x >>> 1)
  | .subn x y => ∃ u, u = s.setFlag (greaterFlag (s.reg y) (s.reg x)) ∧ t = u.setReg x (u.reg y - u.reg x)
  | .shl x => ∃ u, u = s.setFlag (msbFlag (s.reg x)) ∧ t = u.setReg x (u.reg x <<< 1)
  | .loadIndex nnn => t = s.setIndex (nnn.setWidth 16)
  | .jumpOffset nnn => t = s.setPc (BitVec.ofNat 16 ((s.reg 0).toNat + nnn.toNat))
  | .random x kk => t = { s with draws := s.draws + 1 }.setReg x (Config.randomByte s.draws &&& kk)
  | .draw x y n =>
      (∃ a, readCheck (s.effAddrs n) = some a ∧ t = s.raise .memoryOutOfBounds (.address a)) ∨
      (readCheck (s.effAddrs n) = none ∧
        ((∃ c r, edgeCheck s.cfg.drawEdge (originCol (s.reg x)) (originRow (s.reg y)) (s.setBits n) = some (c, r) ∧
            t = s.raise .drawOutOfBounds (.pixel c r)) ∨
         (edgeCheck s.cfg.drawEdge (originCol (s.reg x)) (originRow (s.reg y)) (s.setBits n) = none ∧
            t = s.drawSprite (originCol (s.reg x)) (originRow (s.reg y)) n)))
  | .skipKeyPressed x =>
      (keyOf (s.reg x) = none ∧ t = s.raise .keyIndexOutOfRange (.keyIndex (s.reg x).toNat)) ∨
      (∃ k, keyOf (s.reg x) = some k ∧ t = s.setPc (if s.keyDown k = true then s.pc + 2 else s.pc))
  | .skipKeyNotPressed x =>
      (keyOf (s.reg x) = none ∧ t = s.raise .keyIndexOutOfRange (.keyIndex (s.reg x).toNat)) ∨
      (∃ k, keyOf (s.reg x) = some k ∧ t = s.setPc (if s.keyDown k = true then s.pc else s.pc + 2))
  | .loadDelay x => t = s.setReg x s.delay
  | .waitKey x => (∃ k, s.lowestKey = some k ∧ t = s.setReg x (keyByte k)) ∨
      (s.lowestKey = none ∧ t = s.setPc (s.pc - 2))
  | .setDelay x => t = s.setDelay (s.reg x)
  | .setSound x => t = s.setSound (s.reg x)
  | .addIndex x => t = s.setIndex (s.index + (s.reg x).setWidth 16)
  | .loadGlyph x => t = s.setIndex (glyphAddr (s.reg x))
  | .storeBcd x =>
      (∃ k a, writeCheck s.cfg.protectLow (s.effAddrs 3) = some (k, a) ∧ t = s.raise k (.address a)) ∨
      (writeCheck s.cfg.protectLow (s.effAddrs 3) = none ∧ t = s.writeBytes s.index.toNat (bcdDigits (s.reg x)))
  | .storeRegs x =>
      (∃ k a, writeCheck s.cfg.protectLow (s.effAddrs (x.val + 1)) = some (k, a) ∧ t = s.raise k (.address a)) ∨
      (writeCheck s.cfg.protectLow (s.effAddrs (x.val + 1)) = none ∧ t = s.writeBytes s.index.toNat (s.firstRegs x))
  | .loadRegs x =>
      (∃ a, readCheck (s.effAddrs (x.val + 1)) = some a ∧ t = s.raise .memoryOutOfBounds (.address a)) ∨
      (readCheck (s.effAddrs (x.val + 1)) = none ∧ t = s.loadFirstRegs (x.val + 1))

/-- The inversion lemma of exec. -/
theorem exec_next {i : Instr} {s t : State} (h : exec i s = .next t) : Outcomes i s t := by
  cases i with
  | ret =>
    simp only [exec, execRet] at h
    split at h
    · next h0 => exact .inl ⟨h0, raiseFault_next h⟩
    · next h0 => cases h; exact .inr ⟨h0, rfl⟩
  | call nnn =>
    simp only [exec, execCall] at h
    split at h
    · next h0 => exact .inl ⟨h0, raiseFault_next h⟩
    · next h0 => cases h; exact .inr ⟨h0, rfl⟩
  | skipEqImm x kk => rw [skipIf_next h]; simp [Outcomes]
  | skipNeImm x kk => rw [skipIf_next h]; simp [Outcomes]
  | skipEqReg x y => rw [skipIf_next h]; simp [Outcomes]
  | skipNeReg x y => rw [skipIf_next h]; simp [Outcomes]
  | sub x y => cases h; exact ⟨_, rfl, rfl⟩
  | shr x => cases h; exact ⟨_, rfl, rfl⟩
  | subn x y => cases h; exact ⟨_, rfl, rfl⟩
  | shl x => cases h; exact ⟨_, rfl, rfl⟩
  | draw x y n => exact drawAt_next h
  | skipKeyPressed x =>
    rcases withKey_next h with h | ⟨k, hk, h⟩
    · exact .inl h
    · exact .inr ⟨k, hk, skipIf_next h⟩
  | skipKeyNotPressed x =>
    rcases withKey_next h with h | ⟨k, hk, h⟩
    · exact .inl h
    · refine .inr ⟨k, hk, ?_⟩
      rw [skipIf_next h]
      cases s.keyDown k <;> rfl
  | waitKey x =>
    simp only [exec, execWaitKey] at h
    split at h
    · next k hk => cases h; exact .inl ⟨k, hk, rfl⟩
    · next hk => cases h; exact .inr ⟨hk, rfl⟩
  | storeBcd x =>
    rcases storeAtIndex_next h with ⟨k, a, hc, rfl⟩ | ⟨hc, rfl⟩
    · exact .inl ⟨k, a, hc, rfl⟩
    · exact .inr ⟨hc, rfl⟩
  | storeRegs x =>
    rcases storeAtIndex_next h with ⟨k, a, hc, rfl⟩ | ⟨hc, rfl⟩ <;> rw [State.firstRegs_length] at hc
    · exact .inl ⟨k, a, hc, rfl⟩
    · exact .inr ⟨hc, rfl⟩
  | loadRegs x =>
    simp only [exec, execLoadRegs] at h
    rcases withReads_next h with ⟨a, hc, rfl⟩ | ⟨hc, h⟩
    · exact .inl ⟨a, hc, rfl⟩
    · cases h; exact .inr ⟨hc, rfl⟩
  | _ => cases h; rfl

end Sys2Proof.Machine
end

