-- ==== Sys2Proof/Laws/PerInstr.lean ====
section
/-! SUPPORT. The family EncodesInItsRow, instruction by instruction: the word of a well-formed instruction selects the row of the
opcode map that bears its name (30_encoding.md R87). -/

namespace Sys2Proof.Laws.EncodesInItsRow

/-- The instruction's word selects its own row. -/
def Statement (i : Instr) : Prop :=
  i.wf = true → ∃ row ∈ opcodeRows, row.mnemonic = i.mnemonic ∧ row.selects (encode i) = true

/-- A row of the table that the word selects shows the statement. -/
theorem of_row {i : Instr} (name : String) (mask pattern : Word) (hrow : (⟨name, mask, pattern⟩ : OpRow) ∈ opcodeRows)
    (hname : name = i.mnemonic) (h : i.wf = true → OpRow.selects ⟨name, mask, pattern⟩ (encode i) = true) : Statement i :=
  fun hw => ⟨_, hrow, hname, h hw⟩

theorem clearScreen : Statement .clearScreen :=
  of_row "clear-screen" 0xF0FF 0x00E0 (by decide) rfl fun _ => by
    rw [OpRow.selects_F0FF, encode, wordOf_toNat (by decide)]
    decide

theorem ret : Statement .ret :=
  of_row "return" 0xF0FF 0x00EE (by decide) rfl fun _ => by
    rw [OpRow.selects_F0FF, encode, wordOf_toNat (by decide)]
    decide

theorem jump (nnn : BitVec 12) : Statement (.jump nnn) :=
  of_row "jump" 0xF000 0x1000 (by decide) rfl fun _ => by
    rw [OpRow.selects_F000, encode, formatA_toNat nnn (by decide)]
    show _ = 0x1000
    omega

theorem call (nnn : BitVec 12) : Statement (.call nnn) :=
  of_row "call" 0xF000 0x2000 (by decide) rfl fun _ => by
    rw [OpRow.selects_F000, encode, formatA_toNat nnn (by decide)]
    show _ = 0x2000
    omega

theorem skipEqImm (x : Reg) (kk : Byte) : Statement (.skipEqImm x kk) :=
  of_row "skip-eq-imm" 0xF000 0x3000 (by decide) rfl fun _ => by
    rw [OpRow.selects_F000, encode, formatXK_toNat x kk (by decide)]
    show _ = 0x3000
    omega

theorem skipNeImm (x : Reg) (kk : Byte) : Statement (.skipNeImm x kk) :=
  of_row "skip-ne-imm" 0xF000 0x4000 (by decide) rfl fun _ => by
    rw [OpRow.selects_F000, encode, formatXK_toNat x kk (by decide)]
    show _ = 0x4000
    omega

theorem skipEqReg (x : Reg) (y : Reg) : Statement (.skipEqReg x y) :=
  of_row "skip-eq-reg" 0xF000 0x5000 (by decide) rfl fun _ => by
    rw [OpRow.selects_F000, encode, formatXY_toNat x y (by decide) (by decide)]
    show _ = 0x5000
    omega

theorem loadImm (x : Reg) (kk : Byte) : Statement (.loadImm x kk) :=
  of_row "load-imm" 0xF000 0x6000 (by decide) rfl fun _ => by
    rw [OpRow.selects_F000, encode, formatXK_toNat x kk (by decide)]
    show _ = 0x6000
    omega

theorem addImm (x : Reg) (kk : Byte) : Statement (.addImm x kk) :=
  of_row "add-imm" 0xF000 0x7000 (by decide) rfl fun _ => by
    rw [OpRow.selects_F000, encode, formatXK_toNat x kk (by decide)]
    show _ = 0x7000
    omega

theorem loadReg (x : Reg) (y : Reg) : Statement (.loadReg x y) :=
  of_row "load-reg" 0xF00F 0x8000 (by decide) rfl fun _ => by
    rw [OpRow.selects_F00F, encode, formatXY_toNat x y (by decide) (by decide)]
    show _ = 0x8000
    omega

theorem orReg (x : Reg) (y : Reg) : Statement (.orReg x y) :=
  of_row "or" 0xF00F 0x8001 (by decide) rfl fun _ => by
    rw [OpRow.selects_F00F, encode, formatXY_toNat x y (by decide) (by decide)]
    show _ = 0x8001
    omega

theorem andReg (x : Reg) (y : Reg) : Statement (.andReg x y) :=
  of_row "and" 0xF00F 0x8002 (by decide) rfl fun _ => by
    rw [OpRow.selects_F00F, encode, formatXY_toNat x y (by decide) (by decide)]
    show _ = 0x8002
    omega

theorem xorReg (x : Reg) (y : Reg) : Statement (.xorReg x y) :=
  of_row "xor" 0xF00F 0x8003 (by decide) rfl fun _ => by
    rw [OpRow.selects_F00F, encode, formatXY_toNat x y (by decide) (by decide)]
    show _ = 0x8003
    omega

theorem addReg (x : Reg) (y : Reg) : Statement (.addReg x y) :=
  of_row "add-reg" 0xF00F 0x8004 (by decide) rfl fun _ => by
    rw [OpRow.selects_F00F, encode, formatXY_toNat x y (by decide) (by decide)]
    show _ = 0x8004
    omega

theorem sub (x : Reg) (y : Reg) : Statement (.sub x y) :=
  of_row "sub" 0xF00F 0x8005 (by decide) rfl fun _ => by
    rw [OpRow.selects_F00F, encode, formatXY_toNat x y (by decide) (by decide)]
    show _ = 0x8005
    omega

theorem shr (x : Reg) : Statement (.shr x) :=
  of_row "shr" 0xF00F 0x8006 (by decide) rfl fun _ => by
    rw [OpRow.selects_F00F, encode, formatXY_toNat x 0 (by decide) (by decide)]
    show _ = 0x8006
    omega

theorem subn (x : Reg) (y : Reg) : Statement (.subn x y) :=
  of_row "subn" 0xF00F 0x8007 (by decide) rfl fun _ => by
    rw [OpRow.selects_F00F, encode, formatXY_toNat x y (by decide) (by decide)]
    show _ = 0x8007
    omega

theorem shl (x : Reg) : Statement (.shl x) :=
  of_row "shl" 0xF00F 0x800E (by decide) rfl fun _ => by
    rw [OpRow.selects_F00F, encode, formatXY_toNat x 0 (by decide) (by decide)]
    show _ = 0x800E
    omega

theorem skipNeReg (x : Reg) (y : Reg) : Statement (.skipNeReg x y) :=
  of_row "skip-ne-reg" 0xF000 0x9000 (by decide) rfl fun _ => by
    rw [OpRow.selects_F000, encode, formatXY_toNat x y (by decide) (by decide)]
    show _ = 0x9000
    omega

theorem loadIndex (nnn : BitVec 12) : Statement (.loadIndex nnn) :=
  of_row "load-index" 0xF000 0xA000 (by decide) rfl fun _ => by
    rw [OpRow.selects_F000, encode, formatA_toNat nnn (by decide)]
    show _ = 0xA000
    omega

theorem jumpOffset (nnn : BitVec 12) : Statement (.jumpOffset nnn) :=
  of_row "jump-offset" 0xF000 0xB000 (by decide) rfl fun _ => by
    rw [OpRow.selects_F000, encode, formatA_toNat nnn (by decide)]
    show _ = 0xB000
    omega

theorem random (x : Reg) (kk : Byte) : Statement (.random x kk) :=
  of_row "random" 0xF000 0xC000 (by decide) rfl fun _ => by
    rw [OpRow.selects_F000, encode, formatXK_toNat x kk (by decide)]
    show _ = 0xC000
    omega

theorem draw (x : Reg) (y : Reg) (n : Nat) : Statement (.draw x y n) :=
  of_row "draw" 0xF000 0xD000 (by decide) rfl fun hw => by
    have hn : n ≤ 15 := by simpa [Instr.wf, rowCountOk] using hw
    rw [OpRow.selects_F000, encode, formatXY_toNat x y (by decide) (by omega)]
    show _ = 0xD000
    omega

theorem skipKeyPressed (x : Reg) : Statement (.skipKeyPressed x) :=
  of_row "skip-key-pressed" 0xF0FF 0xE09E (by decide) rfl fun _ => by
    rw [OpRow.selects_F0FF, encode, formatXS_toNat x (by decide) (by decide)]
    show _ = 0xE09E
    omega

theorem skipKeyNotPressed (x : Reg) : Statement (.skipKeyNotPressed x) :=
  of_row "skip-key-not-pressed" 0xF0FF 0xE0A1 (by decide) rfl fun _ => by
    rw [OpRow.selects_F0FF, encode, formatXS_toNat x (by decide) (by decide)]
    show _ = 0xE0A1
    omega

theorem loadDelay (x : Reg) : Statement (.loadDelay x) :=
  of_row "load-delay" 0xF0FF 0xF007 (by decide) rfl fun _ => by
    rw [OpRow.selects_F0FF, encode, formatXS_toNat x (by decide) (by decide)]
    show _ = 0xF007
    omega

theorem waitKey (x : Reg) : Statement (.waitKey x) :=
  of_row "wait-key" 0xF0FF 0xF00A (by decide) rfl fun _ => by
    rw [OpRow.selects_F0FF, encode, formatXS_toNat x (by decide) (by decide)]
    show _ = 0xF00A
    omega

theorem setDelay (x : Reg) : Statement (.setDelay x) :=
  of_row "set-delay" 0xF0FF 0xF015 (by decide) rfl fun _ => by
    rw [OpRow.selects_F0FF, encode, formatXS_toNat x (by decide) (by decide)]
    show _ = 0xF015
    omega

theorem setSound (x : Reg) : Statement (.setSound x) :=
  of_row "set-sound" 0xF0FF 0xF018 (by decide) rfl fun _ => by
    rw [OpRow.selects_F0FF, encode, formatXS_toNat x (by decide) (by decide)]
    show _ = 0xF018
    omega

theorem addIndex (x : Reg) : Statement (.addIndex x) :=
  of_row "add-index" 0xF0FF 0xF01E (by decide) rfl fun _ => by
    rw [OpRow.selects_F0FF, encode, formatXS_toNat x (by decide) (by decide)]
    show _ = 0xF01E
    omega

theorem loadGlyph (x : Reg) : Statement (.loadGlyph x) :=
  of_row "load-glyph" 0xF0FF 0xF029 (by decide) rfl fun _ => by
    rw [OpRow.selects_F0FF, encode, formatXS_toNat x (by decide) (by decide)]
    show _ = 0xF029
    omega

theorem storeBcd (x : Reg) : Statement (.storeBcd x) :=
  of_row "store-bcd" 0xF0FF 0xF033 (by decide) rfl fun _ => by
    rw [OpRow.selects_F0FF, encode, formatXS_toNat x (by decide) (by decide)]
    show _ = 0xF033
    omega

theorem storeRegs (x : Reg) : Statement (.storeRegs x) :=
  of_row "store-regs" 0xF0FF 0xF055 (by decide) rfl fun _ => by
    rw [OpRow.selects_F0FF, encode, formatXS_toNat x (by decide) (by decide)]
    show _ = 0xF055
    omega

theorem loadRegs (x : Reg) : Statement (.loadRegs x) :=
  of_row "load-regs" 0xF0FF 0xF065 (by decide) rfl fun _ => by
    rw [OpRow.selects_F0FF, encode, formatXS_toNat x (by decide) (by decide)]
    show _ = 0xF065
    omega

end Sys2Proof.Laws.EncodesInItsRow
end

