-- ==== Sys2Proof/Tests/Slice0.lean ====
section
/-! SUPPORT. The model's own tests. Expected values come from the worked examples and vectors of 95_test_vectors.md (L1, L2), whose
row each comment names, or from the opcode map 30_encoding.md R87; then a witness for the hypotheses of each statement. -/

namespace Sys2Proof.Tests

open Sys2Proof.Machine

/-- The start state of the vectors: after `initialize`, started, `pc = 0x300`, the word stored there. -/
def boot (w : Nat) : State := ({ State.reset with started := true, pc := 0x300 } : State).withFetchWord 16 w

/-- One thing about the next state, if there is one. -/
def look {α : Type} (r : Result) (f : State → α) : Option α :=
  match r with
  | .next s => some (f s)
  | .fault _ => none
  | .refused _ => none

/-- Set one pixel. -/
def light (s : State) (row : Fin 32) (col : Fin 64) : State := s.setFrame (s.fb.setPixel row col true)

/-- One key down. -/
def press (s : State) (k : Reg) : State := s.withKeys (s.keys.set k.val true)

/-- Set a parameter. -/
def protecting (p : LowProtect) (s : State) : State := { s with cfg := { s.cfg with protectLow := p } }

/-- Set a parameter. -/
def edged (m : EdgeMode) (s : State) : State := { s with cfg := { s.cfg with drawEdge := m } }

/-- The lit pixels of one row. -/
def litCols (s : State) (row : Fin 32) : List Nat :=
  (List.range 64).filter fun c => s.pixel row (Fin.ofNat 64 c)

/-- The fault record of a step, with the state's `pc`, CI and DT. -/
def faultOf (t : State) : Option FaultRecord × Word × Word × Byte := (t.halted, t.pc, t.ci, t.delay)

/-! ### Well-formedness: the one check there is, refusing an ill-formed term -/

theorem test_wf_refuses_draw_of_16_rows : (Instr.draw 0 0 16).wf = false := by decide

theorem test_wf_accepts_draw_of_15_rows : (Instr.draw 0 0 15).wf = true := by decide

/-! ### Decoding: words written out bit by bit from 30_encoding.md R71, R87, every constructor -/

theorem test_decode_group0 :
    decode .lowByte .lowByte 0b0000_0000_1110_0000 = .ok .clearScreen ∧
    decode .lowByte .lowByte 0b0000_1110_1110_1110 = .ok .ret := ⟨rfl, rfl⟩

theorem test_decode_groups_1_to_4 :
    decode .lowByte .lowByte 0b0001_1010_1011_1100 = .ok (.jump 0xABC) ∧
    decode .lowByte .lowByte 0b0010_0100_0000_0000 = .ok (.call 0x400) ∧
    decode .lowByte .lowByte 0b0011_0001_0100_0010 = .ok (.skipEqImm 1 0x42) ∧
    decode .lowByte .lowByte 0b0100_0001_0100_0010 = .ok (.skipNeImm 1 0x42) := ⟨rfl, rfl, rfl, rfl⟩

theorem test_decode_groups_5_to_7 :
    decode .lowByte .lowByte 0b0101_0001_0010_0111 = .ok (.skipEqReg 1 2) ∧
    decode .lowByte .lowByte 0b0110_1010_0101_1100 = .ok (.loadImm 0xA 0x5C) ∧
    decode .lowByte .lowByte 0b0111_1010_1111_1111 = .ok (.addImm 0xA 0xFF) := ⟨rfl, rfl, rfl⟩

theorem test_decode_group8_moves_and_logic :
    decode .lowByte .lowByte 0b1000_0001_0010_0000 = .ok (.loadReg 1 2) ∧
    decode .lowByte .lowByte 0b1000_0001_0010_0001 = .ok (.orReg 1 2) ∧
    decode .lowByte .lowByte 0b1000_0001_0010_0010 = .ok (.andReg 1 2) ∧
    decode .lowByte .lowByte 0b1000_0001_0010_0011 = .ok (.xorReg 1 2) := ⟨rfl, rfl, rfl, rfl⟩

theorem test_decode_group8_arithmetic :
    decode .lowByte .lowByte 0b1000_0000_0001_0100 = .ok (.addReg 0 1) ∧
    decode .lowByte .lowByte 0b1000_0000_0001_0101 = .ok (.sub 0 1) ∧
    decode .lowByte .lowByte 0b1000_0100_1010_0110 = .ok (.shr 4) ∧
    decode .lowByte .lowByte 0b1000_0101_0001_0111 = .ok (.subn 5 1) ∧
    decode .lowByte .lowByte 0b1000_0100_0100_1110 = .ok (.shl 4) := ⟨rfl, rfl, rfl, rfl, rfl⟩

theorem test_decode_groups_9_to_D :
    decode .lowByte .lowByte 0b1001_0001_0010_1111 = .ok (.skipNeReg 1 2) ∧
    decode .lowByte .lowByte 0b1010_0001_0010_0011 = .ok (.loadIndex 0x123) ∧
    decode .lowByte .lowByte 0b1011_0010_0001_0000 = .ok (.jumpOffset 0x210) ∧
    decode .lowByte .lowByte 0b1100_0011_0000_1111 = .ok (.random 3 0x0F) ∧
    decode .lowByte .lowByte 0b1101_0001_0010_0101 = .ok (.draw 1 2 5) := ⟨rfl, rfl, rfl, rfl, rfl⟩

theorem test_decode_groupE :
    decode .lowByte .lowByte 0b1110_0001_1001_1110 = .ok (.skipKeyPressed 1) ∧
    decode .lowByte .lowByte 0b1110_0001_1010_0001 = .ok (.skipKeyNotPressed 1) := ⟨rfl, rfl⟩

theorem test_decode_groupF_keys_timers_index :
    decode .lowByte .lowByte 0b1111_0100_0000_0111 = .ok (.loadDelay 4) ∧
    decode .lowByte .lowByte 0b1111_0001_0000_1010 = .ok (.waitKey 1) ∧
    decode .lowByte .lowByte 0b1111_0011_0001_0101 = .ok (.setDelay 3) ∧
    decode .lowByte .lowByte 0b1111_0000_0001_1000 = .ok (.setSound 0) ∧
    decode .lowByte .lowByte 0b1111_0010_0001_1110 = .ok (.addIndex 2) := ⟨rfl, rfl, rfl, rfl, rfl⟩

theorem test_decode_groupF_memory :
    decode .lowByte .lowByte 0b1111_0000_0010_1001 = .ok (.loadGlyph 0) ∧
    decode .lowByte .lowByte 0b1111_0000_0011_0011 = .ok (.storeBcd 0) ∧
    decode .lowByte .lowByte 0b1111_0011_0101_0101 = .ok (.storeRegs 3) ∧
    decode .lowByte .lowByte 0b1111_0001_0110_0101 = .ok (.loadRegs 1) := ⟨rfl, rfl, rfl, rfl⟩

/-- L2.6, column "decodes as (defaults)". -/
theorem test_decode_illegal_words :
    ∀ w ∈ [0x0000, 0x00F0, 0x0123, 0x8008, 0x800F, 0x801D, 0xE09F, 0xE0AE, 0xE0A2, 0xF000, 0xF0FF, 0xFFFF],
      decodeTableWord 16 w = none := by decide

/-- L2.6, column "under low_nibble". -/
theorem test_decode_low_nibble_keys :
    decode .lowNibble .lowNibble 0x0000 = .ok .clearScreen ∧ decode .lowNibble .lowNibble 0x00F0 = .ok .clearScreen ∧
    decode .lowNibble .lowNibble 0x0123 = .error (.unknownInstruction 0x0123) ∧
    decode .lowNibble .lowNibble 0xE0AE = .ok (.skipKeyPressed 0) ∧
    decode .lowNibble .lowNibble 0xE0A2 = .error (.unknownInstruction 0xE0A2) := ⟨rfl, rfl, rfl, rfl, rfl⟩

theorem test_decode_table_word :
    decodeTableWord 16 0xD125 = some (.draw 1 2 5) ∧ decodeTableWord 16 0x8008 = none := ⟨rfl, rfl⟩

theorem test_truncated_bytes_are_rejected : decodeBytes .lowByte .lowByte [0xD1] = .error .truncated := rfl

/-! ### Control flow: L2.1 -/

theorem test_ret_pops : look (step { boot 0x00EE with sp := 1, stack := State.reset.stack.set 0 0x206 })
    (fun t => (t.sp, t.pc, t.slot 0)) = some (0, 0x206, 0x206) := by decide

theorem test_ret_underflow : look (step { boot 0x00EE with delay := 5 }) faultOf =
    some (some ⟨.stackUnderflow, some 0x300, some 0x00EE, .stackPointer 0⟩, 0x302, 0x00EE, 5) := by decide

theorem test_jump : look (step (boot 0x1ABC)) (fun t => t.pc) = some 0xABC := by decide

theorem test_call_fills_last_slot : look (step { boot 0x2400 with sp := 15 })
    (fun t => (t.slot 15, t.sp, t.pc)) = some (0x302, 16, 0x400) := by decide

theorem test_call_overflow : look (step { boot 0x2400 with sp := 16 }) faultOf =
    some (some ⟨.stackOverflow, some 0x300, some 0x2400, .stackPointer 16⟩, 0x302, 0x2400, 0) := by decide

theorem test_skip_eq_imm_taken : look (step ((boot 0x3142).setReg 1 0x42)) (fun t => t.pc) = some 0x304 := by decide

theorem test_skip_eq_imm_not_taken : look (step ((boot 0x3142).setReg 1 0x41)) (fun t => t.pc) = some 0x302 := by decide

theorem test_skip_ne_imm_not_taken : look (step ((boot 0x4142).setReg 1 0x42)) (fun t => t.pc) = some 0x302 := by decide

theorem test_skip_ne_imm_taken : look (step ((boot 0x4142).setReg 1 0x41)) (fun t => t.pc) = some 0x304 := by decide

theorem test_skip_eq_reg_taken :
    look (step (((boot 0x5127).setReg 1 9).setReg 2 9)) (fun t => t.pc) = some 0x304 := by decide

theorem test_skip_eq_reg_not_taken :
    look (step (((boot 0x5120).setReg 1 9).setReg 2 8)) (fun t => t.pc) = some 0x302 := by decide

theorem test_skip_ne_reg_not_taken :
    look (step (((boot 0x9120).setReg 1 9).setReg 2 9)) (fun t => t.pc) = some 0x302 := by decide

theorem test_skip_ne_reg_taken :
    look (step (((boot 0x912F).setReg 1 9).setReg 2 8)) (fun t => t.pc) = some 0x304 := by decide

theorem test_jump_offset : look (step ((boot 0xB210).setReg 0 0x10)) (fun t => t.pc) = some 0x220 := by decide

theorem test_jump_offset_beyond_memory :
    look (step ((boot 0xBFFF).setReg 0 0xFF)) (fun t => t.pc) = some 0x10FE := by decide

/-! ### ALU: L1.1 to L1.3, L2.2 -/

theorem test_load_imm : look (step (boot 0x6A5C)) (fun t => t.reg 0xA) = some 0x5C := by decide

theorem test_add_imm_wraps_without_flag :
    look (step (((boot 0x7AFF).setReg 0xA 2).setReg 0xF 0x77)) (fun t => (t.reg 0xA, t.reg 0xF)) = some (1, 0x77) := by
  decide

theorem test_load_reg :
    look (step (((boot 0x8120).setReg 1 1).setReg 2 0x99)) (fun t => (t.reg 1, t.reg 2)) = some (0x99, 0x99) := by decide

theorem test_or : look (step ((((boot 0x8121).setReg 1 0xF0).setReg 2 0x0F).setReg 0xF 0x55))
    (fun t => (t.reg 1, t.reg 0xF)) = some (0xFF, 0x55) := by decide

theorem test_and : look (step ((((boot 0x8122).setReg 1 0xF3).setReg 2 0x3F).setReg 0xF 0x55))
    (fun t => (t.reg 1, t.reg 0xF)) = some (0x33, 0x55) := by decide

theorem test_xor : look (step ((((boot 0x8123).setReg 1 0xFF).setReg 2 0x0F).setReg 0xF 0x55))
    (fun t => (t.reg 1, t.reg 0xF)) = some (0xF0, 0x55) := by decide

theorem test_add_reg_carry : look (step (((boot 0x8014).setReg 0 250).setReg 1 10))
    (fun t => (t.reg 0, t.reg 0xF)) = some (4, 1) := by decide

theorem test_add_reg_result_over_carry : look (step (((boot 0x8F04).setReg 0 0xFF).setReg 0xF 2))
    (fun t => t.reg 0xF) = some 1 := by decide

theorem test_sub_borrow : look (step (((boot 0x8015).setReg 0 5).setReg 1 10))
    (fun t => (t.reg 0, t.reg 0xF)) = some (251, 0) := by decide

theorem test_sub_reads_new_flag : look (step (((boot 0x80F5).setReg 0 5).setReg 0xF 3))
    (fun t => (t.reg 0, t.reg 0xF)) = some (4, 1) := by decide

theorem test_shr : look (step ((boot 0x8406).setReg 4 0x81)) (fun t => (t.reg 4, t.reg 0xF)) = some (0x40, 1) := by decide

theorem test_shr_flag_register : look (step ((boot 0x8F06).setReg 0xF 0xFF)) (fun t => t.reg 0xF) = some 0 := by decide

theorem test_subn : look (step (((boot 0x8517).setReg 5 10).setReg 1 3))
    (fun t => (t.reg 5, t.reg 0xF)) = some (0xF9, 0) := by decide

theorem test_subn_reads_new_flag : look (step (((boot 0x81F7).setReg 1 3).setReg 0xF 10))
    (fun t => (t.reg 1, t.reg 0xF)) = some (0xFE, 1) := by decide

theorem test_shl : look (step ((boot 0x840E).setReg 4 0xC1)) (fun t => (t.reg 4, t.reg 0xF)) = some (0x82, 1) := by decide

theorem test_shl_flag_register : look (step ((boot 0x8F0E).setReg 0xF 0x80)) (fun t => t.reg 0xF) = some 2 := by decide

/-- The random byte is an argument here: L2.2 gives it as 0xAB. -/
theorem test_random_masks : look (randomEffect 3 0x0F 0xAB (boot 0xC30F)) (fun t => t.reg 3) = some 0x0B := by decide

/-- L2.2: whatever the byte, a mask of 0 gives 0. -/
theorem test_random_zero_mask :
    ∀ b : Byte, look (randomEffect 3 0x00 b (boot 0xC300)) (fun t => t.reg 3) = some 0 := by
  simp [look, randomEffect]

/-! ### Index and memory: L1.4, L2.3 -/

theorem test_load_index : look (step (boot 0xA123)) (fun t => t.index) = some 0x123 := by decide

theorem test_add_index_wraps :
    look (step (((boot 0xF21E).setIndex 0xFFFF).setReg 2 1)) (fun t => t.index) = some 0 := by decide

theorem test_add_index_no_fault_no_flag : look (step ((((boot 0xF21E).setIndex 0x0FFF).setReg 2 1).setReg 0xF 0x33))
    (fun t => (t.index, t.reg 0xF, t.halted)) = some (0x1000, 0x33, none) := by decide

theorem test_load_glyph : look (step ((boot 0xF029).setReg 0 0xA)) (fun t => t.index) = some 0x082 := by decide

theorem test_load_glyph_whole_byte : look (step ((boot 0xF029).setReg 0 0xFF)) (fun t => t.index) = some 0x54B := by decide

theorem test_store_bcd : look (step (((boot 0xF033).setIndex 0xFFD).setReg 0 123))
    (fun t => [0xFFD, 0xFFE, 0xFFF].map t.readByte) = some [1, 2, 3] := by decide

theorem test_store_bcd_protected : look (step (protecting .glyphs (((boot 0xF033).setIndex 0x09E).setReg 0 123)))
    (fun t => (t.halted, [0x09E, 0x09F, 0x0A0].map t.readByte)) =
      some (some ⟨.reservedWrite, some 0x300, some 0xF033, .address 0x09E⟩, [0x80, 0x80, 0x00]) := by decide

theorem test_store_regs : look (step (((((boot 0xF355).setIndex 0x400).setReg 0 1).setReg 3 4).setReg 4 5))
    (fun t => ([0x400, 0x403, 0x404].map t.readByte, t.index)) = some ([1, 4, 0], 0x400) := by decide

theorem test_store_regs_out_of_bounds : look (step (((boot 0xFF55).setIndex 0xFF1).setReg 0 7))
    (fun t => (t.halted, t.readByte 0xFF1)) =
      some (some ⟨.memoryOutOfBounds, some 0x300, some 0xFF55, .address 0x1000⟩, 0) := by decide

theorem test_load_regs : look (step ((((boot 0xF365).writeBytes 0x400 [9, 8, 7, 6, 5]).setIndex 0x400).setReg 4 0xEE))
    (fun t => ([0, 1, 2, 3, 4].map t.reg, t.index)) = some ([9, 8, 7, 6, 0xEE], 0x400) := by decide

theorem test_load_regs_reads_are_never_protected :
    look (step (protecting .reserved ((boot 0xF065).setIndex 0x050))) (fun t => t.reg 0) = some 0xF0 := by decide

/-! ### Display: L1.5, L2.4 -/

theorem test_clear_screen : look (step ((light (light (boot 0x00E0) 0 0) 31 63).setReg 0xF 7))
    (fun t => (t.pixel 0 0, t.pixel 31 63, t.reg 0xF)) = some (false, false, 7) := by decide

/-- The row of glyph 0 at V1 = 10, V2 = 5. -/
theorem test_draw_glyph : look (step ((((boot 0xD125).setIndex 0x050).setReg 1 10).setReg 2 5))
    (fun t => (litCols t 5, litCols t 6, litCols t 10, t.reg 0xF)) = some ([10, 11, 12, 13], [10, 13], [], 0) := by decide

/-- The row with DRAW_EDGE_MODE = `wrap`, and the row "priority" of L2.7: memory is checked before the edge. -/
theorem test_draw_wraps_and_checks_memory_first :
    (look (step (edged .wrap (light ((((boot 0xD121).writeBytes 0x400 [0xF8]).setIndex 0x400).setReg 1 60) 0 0)))
      (fun t => (litCols t 0, t.reg 0xF)) = some ([60, 61, 62, 63], 1)) ∧
    (look (step (((boot 0xD125).setIndex 0xFFE).setReg 1 62)) (fun t => t.halted) =
      some (some ⟨.memoryOutOfBounds, some 0x300, some 0xD125, .address 0x1000⟩)) := by decide

/-! ### Keypad and timers: L1.8, L2.5 -/

theorem test_skip_key_pressed :
    look (step (press ((boot 0xE19E).setReg 1 5) 5)) (fun t => t.pc) = some 0x304 := by decide

theorem test_skip_key_pressed_index : look (step ((boot 0xE19E).setReg 1 0x10)) faultOf =
    some (some ⟨.keyIndexOutOfRange, some 0x300, some 0xE19E, .keyIndex 16⟩, 0x302, 0xE19E, 0) := by decide

theorem test_skip_key_not_pressed :
    look (step ((boot 0xE1A1).setReg 1 5)) (fun t => t.pc) = some 0x304 := by decide

theorem test_skip_key_not_pressed_down :
    look (step (press ((boot 0xE1A1).setReg 1 5) 5)) (fun t => t.pc) = some 0x302 := by decide

theorem test_load_delay :
    look (step ((boot 0xF407).setDelay 2)) (fun t => (t.reg 4, t.delay)) = some (2, 1) := by decide

theorem test_wait_key_waits : look (step (((boot 0xF10A).setDelay 3).setSound 1))
    (fun t => (t.pc, t.delay, t.sound, t.soundStop)) = some (0x300, 2, 0, true) := by decide

theorem test_wait_key_lowest : look (step (press (press (boot 0xF10A) 9) 5))
    (fun t => (t.pc, t.reg 1)) = some (0x302, 5) := by decide

theorem test_set_delay : look (step ((boot 0xF315).setReg 3 3)) (fun t => t.delay) = some 2 := by decide

theorem test_set_sound : look (step ((boot 0xF018).setReg 0 10))
    (fun t => (t.sound, t.soundActive, t.soundStop)) = some (9, true, false) := by decide

theorem test_set_sound_zero_is_no_pulse : look (step (((boot 0xF018).setReg 0 0).setSound 5))
    (fun t => (t.sound, t.soundStop)) = some (0, false) := by decide

/-! ### The step, reset, load: L1.6, L2.7, L2.8 -/

theorem test_unknown_word_has_no_tick : look (step (((boot 0x8008).setDelay 5).setSound 5)) faultOf =
    some (some ⟨.unknownInstruction, some 0x300, some 0x8008, .none⟩, 0x302, 0x8008, 5) := by decide

theorem test_fetch_fault : look (step { boot 0x6A5C with pc := 0xFFF, delay := 4 }) faultOf =
    some (some ⟨.fetchOutOfBounds, some 0xFFF, none, .none⟩, 0xFFF, 0, 4) := by decide

/-- 70_reset_and_hazards.md R255. -/
theorem test_step_with_no_program : look (step State.reset) (fun t => t.halted) =
    some (some ⟨.unknownInstruction, some 0x200, some 0x0000, .none⟩) := by decide

theorem test_reset_glyphs : [0x050, 0x051, 0x09B, 0x09F, 0x0A0].map State.reset.readByte = [0xF0, 0x90, 0xF0, 0x80, 0] := by
  decide

theorem test_second_load_overlays :
    (look (State.reset.loadProgram [0x12, 0x00]) fun s => look (s.loadProgram [0xA0]) fun t => t.fetch16 0x200) =
      some (some 0xA000) := by decide

theorem test_with_fetch_word_runs_first : look (step (State.reset.withFetchWord 16 0x6A5C))
    (fun t => (t.reg 0xA, t.pc)) = some (0x5C, 0x202) := by decide

/-- L2.4, the snapshot after the glyph draw: byte 1320 is the cell of (10,5), byte 1336 that of (14,5). -/
theorem test_snapshot_offsets : cellOffset 5 10 = 1320 ∧ cellOffset 5 14 = 1336 := by decide

/-! ### Witnesses: for each statement with hypotheses, a concrete input that meets all of them, clause by clause -/

/-- From what a look shows to the next state it looked at. -/
theorem next_of_look {α : Type} {r : Result} {f : State → α} {v : α} (h : look r f = some v) :
    ∃ t, r = .next t ∧ f t = v := by
  cases r <;> simp_all [look]

theorem witness_DecodeOfEncodeIsTheInstruction : (Instr.draw 15 15 15).wf = true ∧ (Instr.loadImm 15 0xFF).wf = true := by
  decide

theorem witness_EncodeOfDecodeKeepsEveryUsedBit :
    decode .lowByte .lowByte 0x5127 = .ok (.skipEqReg 1 2) ∧ (0x5127 &&& usedBits (.skipEqReg 1 2)) = 0x5120 := ⟨rfl, rfl⟩

/-- Every clause that asks for a word of a row (`decodesTo`, the table) has one: the row's own pattern. -/
theorem witness_decodesTo : opcodeRows.length = 34 ∧ ∀ row ∈ opcodeRows, row.pattern &&& row.mask = row.pattern := by decide

theorem witness_IllegalWordsAreExactlyTheUnlistedOnes :
    ([0x0FFF, 0x8FFD, 0xEFFF, 0xFF66].map (decodeTableWord 16) = [none, none, none, none]) ∧
    ([0x0FEE, 0x8FFE, 0xEFA1, 0xFF65].map (decodeTableWord 16) =
      [some .ret, some (.shl 15), some (.skipKeyNotPressed 15), some (.loadRegs 15)]) := by decide

/-- One word for each clause of group 0x0, then of group 0xE. -/
theorem witness_KeyParametersDecideTheRemainingWords :
    ([(0x00E0 : Word), 0x00EE, 0x00E1, 0x00F0, 0x00FE].map fun w => (w.toNat / 4096, w.toNat % 256, w.toNat % 16)) =
      [(0, 0xE0, 0x0), (0, 0xEE, 0xE), (0, 0xE1, 0x1), (0, 0xF0, 0x0), (0, 0xFE, 0xE)] ∧
    ([(0xE09E : Word), 0xE0A1, 0xE09F, 0xE0AE, 0xE091].map fun w => (w.toNat / 4096, w.toNat % 256, w.toNat % 16)) =
      [(14, 0x9E, 0xE), (14, 0xA1, 0x1), (14, 0x9F, 0xF), (14, 0xAE, 0xE), (14, 0x91, 0x1)] := by decide

/-- At the highest `pc` that fetches. -/
theorem witness_StepRunsTheDecodedInstruction :
    let s := ({ State.reset with pc := 0xFFE } : State).withFetchWord 16 0x6A5C
    s.halted = none ∧ s.pc.toNat = 0xFFE ∧ s.nextInstr = .ok (.loadImm 0xA 0x5C) ∧
      ∃ t, exec (.loadImm 0xA 0x5C)
        { s with started := true, soundStop := false, ci := s.fetch16 s.pc.toNat, pc := s.pc + 2 } = .next t ∧
        t.halted = none :=
  ⟨rfl, rfl, rfl, next_of_look (f := fun t => t.halted) (by decide)⟩

/-- The other clause: an instruction that raises. -/
theorem witness_StepRunsTheDecodedInstruction_raising :
    (boot 0x00EE).nextInstr = .ok .ret ∧ (boot 0x00EE).pc.toNat ≤ 0xFFE ∧ (boot 0x00EE).halted = none ∧
      ∃ t, exec .ret (boot 0x00EE).fetched = .next t ∧
        t.halted = some ⟨.stackUnderflow, some 0x300, some 0x00EE, .stackPointer 0⟩ :=
  ⟨rfl, by decide, rfl, next_of_look (f := fun t => t.halted) (by decide)⟩

theorem witness_RunningCoreAlwaysHasANextState : State.reset.halted = none := rfl

/-- Both sides of the bound: `pc = 0xFFF`, and `pc = 0xFFE` in a step that raises. -/
theorem witness_FetchFaultLeavesPcAndCi :
    (({ State.reset with pc := 0xFFF } : State).halted = none ∧ 0xFFE < ({ State.reset with pc := 0xFFF } : State).pc.toNat) ∧
    (({ State.reset with pc := 0xFFE } : State).pc.toNat = 0xFFE ∧
      ∃ t, step { State.reset with pc := 0xFFE } = .next t ∧
        t.halted = some ⟨.unknownInstruction, some 0xFFE, some 0, .none⟩) :=
  ⟨⟨rfl, by decide⟩, rfl, next_of_look (f := fun t => t.halted) (by decide)⟩

theorem witness_UnknownInstructionIsRaisedAtDecode :
    State.reset.halted = none ∧ State.reset.pc.toNat ≤ 0xFFE ∧ State.reset.nextInstr = .error (.unknownInstruction 0) :=
  ⟨rfl, by decide, rfl⟩

theorem witness_HaltedCoreIsStoppedForGood :
    (State.reset.latch ⟨.fetchOutOfBounds, some 0xFFF, none, .none⟩).halted =
      some ⟨.fetchOutOfBounds, some 0xFFF, none, .none⟩ := rfl

/-- A fetch fault and an execute fault. -/
theorem witness_FaultsArePrecise :
    (∃ t, step { State.reset with pc := 0xFFF } = .next t ∧ t.halted = some ⟨.fetchOutOfBounds, some 0xFFF, none, .none⟩) ∧
    ∃ t, step (boot 0x00EE) = .next t ∧
      t.halted = some ⟨.stackUnderflow, some 0x300, some 0x00EE, .stackPointer 0⟩ :=
  ⟨next_of_look (f := fun t => t.halted) (by decide), next_of_look (f := fun t => t.halted) (by decide)⟩

/-- A step for each kind that a step can raise, by cause code (the fetch fault is in the witness above): 1, 4, 5, 6, 7, 8, 9. -/
theorem witness_FaultRecordsNameTheirCause :
    ([boot 0x8008, (boot 0xF165).setIndex 0xFFF, { boot 0x2400 with sp := 16 }, boot 0x00EE, (boot 0xE19E).setReg 1 0x10,
      (((boot 0xD121).writeBytes 0x400 [0xF8]).setIndex 0x400).setReg 1 60,
      protecting .reserved ((boot 0xF033).setIndex 0x1FE)].map
      fun s => (s.halted, look (step s) fun t => t.halted.map FaultRecord.code)) =
    [(none, some (some 1)), (none, some (some 4)), (none, some (some 5)), (none, some (some 6)), (none, some (some 7)),
     (none, some (some 8)), (none, some (some 9))] := by decide

theorem witness_invariant_at_reset : State.reset.Inv :=
  ⟨rfl, fun _ h => (nomatch h), fun h => absurd rfl h, fun h => (nomatch h), fun _ => rfl⟩

theorem witness_EveryStepKeepsTheInvariant : State.reset.Inv ∧ ∃ t, step State.reset = .next t ∧ t.pc = 0x202 :=
  ⟨witness_invariant_at_reset, next_of_look (f := fun t => t.pc) (by decide)⟩

theorem witness_EveryStepKeepsPcInReach : State.reset.PcInReach ∧ ∃ t, step State.reset = .next t ∧ t.pc = 0x202 :=
  ⟨⟨by decide, by decide⟩, next_of_look (f := fun t => t.pc) (by decide)⟩

theorem witness_HostOperationsKeepTheInvariants :
    State.reset.Inv ∧ State.reset.PcInReach ∧ ∃ t, State.reset.loadProgram [0x12, 0x00] = .next t ∧ t.readByte 0x200 = 0x12 :=
  ⟨witness_invariant_at_reset, ⟨by decide, by decide⟩, next_of_look (f := fun t => t.readByte 0x200) (by decide)⟩

theorem witness_StepNeverWritesKeypadOrParameters :
    ∃ t, step (press (boot 0xF10A) 5) = .next t ∧ t.reg 1 = 5 := next_of_look (f := fun t => t.reg 1) (by decide)

theorem witness_FramebufferAndMemoryHaveOnlyTheirWriters :
    (∃ t, exec .clearScreen (light State.reset 0 0) = .next t ∧ t.fb ≠ (light State.reset 0 0).fb) ∧
    ∃ t, exec (.storeRegs 0) (State.reset.setReg 0 7) = .next t ∧ t.mem ≠ (State.reset.setReg 0 7).mem :=
  ⟨⟨_, rfl, by decide⟩, ⟨_, rfl, by decide⟩⟩

theorem witness_OnlyCallAndReturnTouchTheStack :
    ∃ t, exec (.call 0x400) State.reset = .next t ∧ t.sp ≠ State.reset.sp ∧ t.stack ≠ State.reset.stack :=
  ⟨_, rfl, by decide, by decide⟩

theorem witness_SpecialRegistersHaveOnlyTheirWriters :
    (∃ t, exec (.loadIndex 0x123) State.reset = .next t ∧ t.index ≠ State.reset.index) ∧
    (∃ t, exec (.setDelay 0) (State.reset.setReg 0 3) = .next t ∧ t.delay ≠ State.reset.delay) ∧
    ∃ t, exec (.setSound 0) (State.reset.setReg 0 3) = .next t ∧ t.sound ≠ State.reset.sound :=
  ⟨⟨_, rfl, by decide⟩, ⟨_, rfl, by decide⟩, ⟨_, rfl, by decide⟩⟩

theorem witness_GeneralRegistersHaveOnlyTheirWriters :
    (∃ t, exec (.loadImm 0xF 7) State.reset = .next t ∧ t.reg 0xF ≠ State.reset.reg 0xF) ∧
    ∃ t, exec (.shr 4) (State.reset.setReg 4 1) = .next t ∧ t.reg 0xF ≠ (State.reset.setReg 4 1).reg 0xF :=
  ⟨⟨_, rfl, by decide⟩, ⟨_, rfl, by decide⟩⟩

/-- A step that completes, one for each shape: target, popped entry, skip, key skip, wait. -/
theorem witness_PcAfterEveryCompletedStep :
    ([boot 0x1ABC, (boot 0xBFFF).setReg 0 0xFF, { boot 0x00EE with sp := 16, stack := State.reset.stack.set 15 0x222 },
      boot 0x3100, boot 0xE1A1, boot 0xF10A, press (boot 0xF10A) 15].map
      fun s => (s.halted, look (step s) fun t => (t.halted, t.pc))) =
    [(none, some (none, 0xABC)), (none, some (none, 0x10FE)), (none, some (none, 0x222)), (none, some (none, 0x304)),
     (none, some (none, 0x304)), (none, some (none, 0x300)), (none, some (none, 0x302))] := by decide

/-- A step that completes and pulses, and one that faults with the timers running. -/
theorem witness_CompletedStepTicksBothTimers :
    (∃ t, step ((boot 0xF10A).setSound 1) = .next t ∧ (t.halted, t.soundStop) = (none, true)) ∧
    ∃ t, step ((boot 0x8008).setSound 1) = .next t ∧ (t.halted.isSome, t.soundStop, t.sound) = (true, false, 1) :=
  ⟨next_of_look (f := fun t => (t.halted, t.soundStop)) (by decide),
   next_of_look (f := fun t => (t.halted.isSome, t.soundStop, t.sound)) (by decide)⟩

theorem witness_HiddenStateIsNotObservable :
    (boot 0).halted = none ∧ (∀ x, Instr.addReg 0 1 ≠ .setSound x) ∧
      ∃ t, exec (.addReg 0 1) (boot 0) = .next t ∧ t.halted = none :=
  ⟨rfl, by simp, _, rfl, rfl⟩

/-- SP at both ends of both clauses. -/
theorem witness_ReturnPopsTheTopEntry :
    State.reset.sp = 0 ∧ ((1 : Fin 17) = (0 : Fin 16).succ) ∧ ((16 : Fin 17) = (15 : Fin 16).succ) := by decide

theorem witness_CallPushesTheReturnAddress :
    ({ State.reset with sp := 16 } : State).sp = 16 ∧ ((0 : Fin 17) = (0 : Fin 16).castSucc) ∧
      ((15 : Fin 17) = (15 : Fin 16).castSucc) := by decide

/-- The clauses on registers: a destination that is not `reg[0xF]`, one that is, a register beside both, a mask of 0. They serve
the statements RegisterLoadsAndAddImm, LogicCombinesBitByBit, AddRegSumsWithCarry, ShiftsCaptureTheBitShiftedOut,
RandomMasksAFreshByte and TimerMovesReadAndWriteTheTimers. -/
theorem witness_register_clauses :
    (0xE : Reg) ≠ 0xF ∧ (0xF : Reg) = 0xF ∧ (0 : Reg) ≠ 0xE ∧ (0 : Reg) ≠ 0xF ∧ (0 : Byte) = 0 := by decide

/-- The flag of the old values is 1 for 9 and 0, and 0 for equal values; each aliasing clause has its registers. -/
theorem witness_SubWritesTheFlagFirst :
    (1 : Nat) = (if ((State.reset.setReg 0 9).reg 1).toNat < ((State.reset.setReg 0 9).reg 0).toNat then 1 else 0) ∧
    (0 : Nat) = (if (State.reset.reg 0xF).toNat < (State.reset.reg 0xF).toNat then 1 else 0) ∧
      (0 : Reg) ≠ 0xF ∧ (1 : Reg) ≠ 0xF ∧ (0xF : Reg) = 0xF := by decide

/-- The flag of the old values is 1 when `reg[y]` is the larger; each aliasing clause has its registers. -/
theorem witness_SubnWritesTheFlagFirst :
    (1 : Nat) = (if ((State.reset.setReg 1 9).reg 0).toNat < ((State.reset.setReg 1 9).reg 1).toNat then 1 else 0) ∧
      (0 : Reg) ≠ 0xF ∧ (1 : Reg) ≠ 0xF ∧ (0xF : Reg) = 0xF := by decide

theorem witness_StoreBcdWritesThreeDigits : ∀ k, k < 3 → (State.reset.setIndex 0xFFD).mayStore (0xFFD + k) :=
  fun _ hk => ⟨by omega, trivial⟩

theorem witness_StoreRegsWritesTheFirstRegisters : ∀ k, k ≤ (15 : Reg).val → (State.reset.setIndex 0xFF0).mayStore (0xFF0 + k) :=
  fun _ hk => ⟨by simp at hk; omega, trivial⟩

/-- The failing clauses of both stores: out of memory at the second byte; protected at the first, and free just outside. -/
theorem witness_stores_report_the_first_failing_address :
    ((State.reset.setIndex 0xFFF).mayStore 0xFFF ∧ ¬(State.reset.setIndex 0xFFF).mayStore 0x1000) ∧
    ¬(protecting .glyphs (State.reset.setIndex 0x050)).mayStore 0x050 ∧
    (protecting .glyphs (State.reset.setIndex 0x04F)).mayStore 0x04F ∧
    (protecting .glyphs (State.reset.setIndex 0x0A0)).mayStore 0x0A0 ∧
    ¬(protecting .reserved (State.reset.setIndex 0x1FF)).mayStore 0x1FF ∧
    (protecting .reserved (State.reset.setIndex 0x200)).mayStore 0x200 := by
  simp [State.mayStore, protecting, State.reset, State.initial, defaultParams]

/-- The last index that passes for 16 registers, and the first that does not. -/
theorem witness_LoadRegsReadsTheFirstRegisters :
    ((State.reset.setIndex 0xFF0).index.toNat + (15 : Reg).val ≤ 0xFFF) ∧
    0xFFF < (State.reset.setIndex 0xFF1).index.toNat + (15 : Reg).val := by decide

theorem witness_StoredBytesAreFetchedBigEndian :
    (1 : Reg).val = (0 : Reg).val + 1 ∧ (1 : Reg) ≤ 1 ∧ State.reset.halted = none ∧
      (∃ t, exec (.storeRegs 1) State.reset = .next t ∧ t.halted = State.reset.halted) ∧
      ∃ t, exec (.loadRegs 1) State.reset = .next t ∧ t.halted = State.reset.halted :=
  ⟨rfl, by decide, rfl, next_of_look (f := fun t => t.halted) (by decide), next_of_look (f := fun t => t.halted) (by decide)⟩

/-- `u` with other registers than the stored ones. -/
theorem witness_StoreRegsThenLoadRegsRestores :
    (State.reset.setReg 0 7).halted = none ∧ ∃ t, exec (.storeRegs 0) (State.reset.setReg 0 7) = .next t ∧ t.halted = none ∧
      (t.setReg 0 9).mem = t.mem ∧ (t.setReg 0 9).index = State.reset.index ∧ (t.setReg 0 9).cfg = State.reset.cfg :=
  ⟨rfl, _, rfl, rfl, rfl, rfl, rfl⟩

/-- The default mode at the edge of memory: glyph A at the screen's origin spills nowhere; a sprite of no rows reads nothing. -/
theorem witness_DrawFlipsExactlyTheHitPixels :
    ((State.reset.setIndex 0x082).index.toNat + 5 - 1 ≤ 0xFFF ∧ ¬(State.reset.setIndex 0x082).spillsOver 0 0 5) ∧
    ((0 : Nat) = 0 ∧ ¬(State.reset.setIndex 0xFFFF).spillsOver 63 31 0) := by
  refine ⟨⟨by decide, ?_⟩, rfl, ?_⟩ <;> rintro ⟨r, c, hr, hc, -, h⟩ <;> omega

/-- A hit pixel that is off, and one that is on. -/
theorem witness_DrawFlipsExactlyTheHitPixels_pixels :
    (State.reset.setIndex 0x082).hits 0 0 5 0 0 ∧ State.reset.pixel 0 0 = false ∧ (light State.reset 0 0).pixel 0 0 = true :=
  ⟨⟨0, 0, by decide, by decide, by decide, by decide⟩, by decide, by decide⟩

/-- One row past memory; then a set bit at column 64 with none before it off the screen. -/
theorem witness_DrawChecksMemoryThenTheEdge :
    (0xFFF < (State.reset.setIndex 0xFFF).index.toNat + 2 - 1) ∧
    (let s := (State.reset.writeBytes 0x400 [0xF8]).setIndex 0x400
     s.index.toNat + 1 - 1 ≤ 0xFFF ∧ s.cfg.drawEdge = .fault ∧ s.spriteBit 0 4 = true ∧ 63 < 60 + 4 ∧
      ∀ r' c', c' < 8 → (r' < 0 ∨ r' = 0 ∧ c' < 4) → s.spriteBit r' c' = true → 60 + c' ≤ 63 ∧ 0 + r' ≤ 31) := by
  refine ⟨by decide, by decide, rfl, by decide, by decide, ?_⟩
  intro r' c' _ h _
  omega

theorem witness_TargetFollowsTheEdgeMode :
    EdgeMode.fault ≠ .wrap ∧ EdgeMode.clip ≠ .wrap ∧ target .clip 63 31 = some (31, 63) ∧ target .clip 64 31 = none ∧
      target .fault 63 32 = none ∧ target .wrap 70 45 = some (13, 6) := by decide

theorem witness_DrawingTwiceRestoresTheScreen :
    let s := State.reset.setIndex 0x082
    s.halted = none ∧ s.fb = Frame.clear ∧ s.cfg.drawEdge ≠ .clip ∧
      ∃ t, exec (.draw 1 2 5) s = .next t ∧ t.halted = none ∧ ∃ v, exec (.draw 1 2 5) t = .next v ∧
        (t.index = s.index ∧ t.reg 1 = s.reg 1 ∧ t.reg 2 = s.reg 2 ∧ t.mem = s.mem ∧ t.cfg = s.cfg) :=
  ⟨rfl, rfl, by decide, _, rfl, rfl, _, rfl, by decide⟩

/-- The last byte of the last cell. -/
theorem witness_SnapshotHoldsOneCellPerPixel : (3 : Nat) < 4 ∧ (31 : Fin 32).val * 256 + (63 : Fin 64).val * 4 + 3 = 8191 := by
  decide

/-- Key 15 and the byte above it. -/
theorem witness_KeySkipsTestTheNamedKey :
    ((State.reset.setReg 1 15).reg 1).toNat = (15 : Reg).val ∧ 0x0F < ((State.reset.setReg 1 16).reg 1).toNat := by decide

/-- Key 0 down, only key 15 down, none down. -/
theorem witness_WaitKeyTakesTheLowestKey :
    ((press State.reset 0).keys[(0 : Reg)] = true) ∧
    ((press State.reset 15).keys[(15 : Reg)] = true ∧ ∀ j : Reg, j < 15 → (press State.reset 15).keys[j] = false) ∧
    ∀ k : Reg, State.reset.keys[k] = false := by decide

theorem witness_IdleStepsChangeOnlyTheTimers :
    (boot 0xF10A).halted = none ∧ (boot 0xF10A).pc.toNat ≤ 0xFFE ∧ (boot 0xF10A).nextInstr = .ok (.waitKey 1) ∧
      (∀ k, (boot 0xF10A).keyDown k = false) ∧
    (boot 0x1300).halted = none ∧ (boot 0x1300).pc.toNat ≤ 0xFFE ∧ (boot 0x1300).nextInstr = .ok (.jump 0x300) ∧
      (0x300 : BitVec 12).toNat = (boot 0x1300).pc.toNat :=
  ⟨rfl, by decide, rfl, by decide, rfl, by decide, rfl, rfl⟩

/-- A state that holds something everywhere: halted, started, with registers, memory, a pixel, a key and a pulse left over. -/
def dirty : State :=
  { (press (light (((boot 0xF10A).setReg 3 7).writeBytes 0x050 [1, 2]) 4 5) 9).latch ⟨.fetchOutOfBounds, some 0xFFF, none, .none⟩ with
    soundStop := true, draws := 6, sp := 3, index := 0xFFFF, ci := 0x1234, delay := 8, sound := 9 }

/-- The first call, and the host's reset of a halted state with something everywhere. -/
theorem witness_ResetStateFollowsTheTable :
    State.reset = State.initial defaultParams ∧ dirty.cfg = defaultParams ∧ dirty.halted ≠ none ∧
      dirty.readByte 0x050 = 1 ∧ dirty.reinit.readByte 0x050 = 0xF0 := by
  refine ⟨rfl, rfl, ?_⟩
  decide

/-- Another state with the same parameters. -/
theorem witness_InitializeForgetsWhatCameBefore : dirty.cfg = State.reset.cfg ∧ dirty.mem ≠ State.reset.mem := by decide

/-- A step under the port's keys; a waiting wait-key whose lowest key is 15; an instruction that is none of the three. -/
theorem witness_KeypadPortSetsTheKeysOnly :
    let ks := State.reset.keys.set 15 true
    let s := boot 0xF10A
    (s.halted = none ∧ s.pc.toNat ≤ 0xFFE ∧ s.nextInstr = .ok (.waitKey 1) ∧
      ks[(15 : Reg)] = true ∧ (∀ j : Reg, j < 15 → ks[j] = false)) ∧
    (∃ t, step (s.withKeys ks) = .next t ∧ (t.reg 1, t.keyDown 15, t.keyDown 14) = (15, true, false)) ∧
    (∀ x, Instr.loadDelay 0 ≠ .skipKeyPressed x ∧ Instr.loadDelay 0 ≠ .skipKeyNotPressed x ∧ Instr.loadDelay 0 ≠ .waitKey x) ∧
      ∃ t, exec (.loadDelay 0) s = .next t ∧ t.halted = none :=
  ⟨⟨rfl, by decide, rfl, by decide, by decide⟩,
   next_of_look (f := fun t => (t.reg 1, t.keyDown 15, t.keyDown 14)) (by decide), by simp, _, rfl, rfl⟩

/-- Each clause at its bound: a halted core, a started core, 3585 bytes, 3584 bytes. -/
theorem witness_LoadProgramCopiesTheImage :
    (State.reset.latch ⟨.fetchOutOfBounds, some 0xFFF, none, .none⟩).halted ≠ none ∧ (boot 0).started = true ∧
      State.reset.halted = none ∧ State.reset.started = false ∧
      3584 < (List.replicate 3585 (0xAA : Byte)).length ∧ (List.replicate 3584 (0xAA : Byte)).length ≤ 3584 := by
  refine ⟨by decide, rfl, rfl, rfl, ?_, ?_⟩
  · rw [List.length_replicate]; omega
  · rw [List.length_replicate]

end Sys2Proof.Tests
end

section
/-! PROOFS. The operand fields of 00_scope.md R15 as bit ranges of the word. -/

namespace Sys2Proof

theorem xField_eq_extractLsb' (w : Word) : (xField w).val = (w.extractLsb' 8 4).toNat := by
  rw [BitVec.extractLsb'_toNat, Nat.shiftRight_eq_div_pow]; rfl

theorem yField_eq_extractLsb' (w : Word) : (yField w).val = (w.extractLsb' 4 4).toNat := by
  rw [BitVec.extractLsb'_toNat, Nat.shiftRight_eq_div_pow]; rfl

theorem lowNibble_eq_extractLsb' (w : Word) : lowNibble w = (w.extractLsb' 0 4).toNat := by
  rw [BitVec.extractLsb'_toNat, Nat.shiftRight_zero]; rfl

theorem kkField_eq_extractLsb' (w : Word) : kkField w = w.extractLsb' 0 8 := by
  rw [kkField, BitVec.ofNat_toNat, BitVec.setWidth_eq_extractLsb' (by decide)]

theorem nnnField_eq_extractLsb' (w : Word) : nnnField w = w.extractLsb' 0 12 := by
  rw [nnnField, BitVec.ofNat_toNat, BitVec.setWidth_eq_extractLsb' (by decide)]

/-- Settles O6: each field's arithmetic on the word's number (a quotient, a remainder) is its range of bits. -/
theorem operandFieldsAreTheirBitRanges : Obligations.OperandFieldsAreTheirBitRanges := fun w =>
  ⟨xField_eq_extractLsb' w, yField_eq_extractLsb' w, kkField_eq_extractLsb' w, nnnField_eq_extractLsb' w,
    lowNibble_eq_extractLsb' w⟩

end Sys2Proof
end

section
/-! PROOFS. The kinds of effect an instruction can have, ten for all 34: which fields of the state each may change, and which
instructions have it. The claims over every instruction that speak of whole fields split on these ten. -/

namespace Sys2Proof.Machine

/-- The possible next states of an instruction by what they change. `setPc` is a skip, taken or not (40_control_flow.md R100), the
roll-back of wait-key (44_keypad_timers.md R193), or a jump, whose target is at most 0xFF + 0xFFF (40_control_flow.md R102, R108). -/
inductive Effect (s : State) : Instr → State → Prop
  | raise (i : Instr) (k : FaultKind) (d : FaultDetail) : Effect s i (s.raise k d)
  | setRegs (i : Instr) (regs : Vector Byte 16) (draws : Nat) : Effect s i { s with regs, draws }
  | setPc (i : Instr) (target : Word)
      (h : target = s.pc ∨ target = s.pc + 2 ∨ target = s.pc - 2 ∨ target.toNat ≤ 0x10FE) : Effect s i (s.setPc target)
  | call (nnn : BitVec 12) : Effect s (.call nnn) ((s.push s.pc).setPc (nnn.setWidth 16))
  | ret : Effect s .ret s.popPc
  | setIndex (i : Instr) (v : Word) (h : ∃ x nnn, i = .loadIndex nnn ∨ i = .addIndex x ∨ i = .loadGlyph x) :
      Effect s i (s.setIndex v)
  | setDelay (x : Reg) (v : Byte) : Effect s (.setDelay x) (s.setDelay v)
  | setSound (x : Reg) (v : Byte) : Effect s (.setSound x) (s.setSound v)
  | setFrame (i : Instr) (regs : Vector Byte 16) (fb : Frame) (h : i = .clearScreen ∨ ∃ x y n, i = .draw x y n) :
      Effect s i { s with regs, fb }
  | setMem (i : Instr) (mem : List Host.Cell) (h : ∃ x, i = .storeBcd x ∨ i = .storeRegs x) : Effect s i { s with mem }

/-- 40_control_flow.md R108: the sum of a register and a 12-bit address needs no reduction. -/
theorem toNat_ofNat_add_address (b : Byte) (nnn : BitVec 12) :
    (BitVec.ofNat 16 (b.toNat + nnn.toNat)).toNat = b.toNat + nnn.toNat := by
  rw [BitVec.toNat_ofNat]; omega

/-- A 12-bit address as a word. -/
theorem toNat_setWidth_address (nnn : BitVec 12) : (nnn.setWidth 16).toNat = nnn.toNat :=
  BitVec.toNat_setWidth_of_le (by decide)

theorem Effect.skip {s : State} (i : Instr) (c : Prop) [Decidable c] :
    Effect s i (s.setPc (if c then s.pc + 2 else s.pc)) :=
  .setPc i _ (by split <;> simp)

theorem exec_effect {i : Instr} {s t : State} (h : exec i s = .next t) : Effect s i t := by
  have ho := exec_next h
  cases i with
  | clearScreen => subst ho; exact .setFrame _ _ _ (.inl rfl)
  | ret =>
    rcases ho with ⟨-, rfl⟩ | ⟨-, rfl⟩
    · exact .raise ..
    · exact .ret
  | jump nnn => subst ho; exact .setPc _ _ (by rw [toNat_setWidth_address]; omega)
  | call nnn =>
    rcases ho with ⟨-, rfl⟩ | ⟨-, rfl⟩
    · exact .raise ..
    · exact .call nnn
  | skipEqImm x kk => subst ho; exact .skip ..
  | skipNeImm x kk => subst ho; exact .skip ..
  | skipEqReg x y => subst ho; exact .skip ..
  | skipNeReg x y => subst ho; exact .skip ..
  | sub x y => obtain ⟨u, rfl, rfl⟩ := ho; exact .setRegs _ _ s.draws
  | shr x => obtain ⟨u, rfl, rfl⟩ := ho; exact .setRegs _ _ s.draws
  | subn x y => obtain ⟨u, rfl, rfl⟩ := ho; exact .setRegs _ _ s.draws
  | shl x => obtain ⟨u, rfl, rfl⟩ := ho; exact .setRegs _ _ s.draws
  | jumpOffset nnn => subst ho; exact .setPc _ _ (by rw [toNat_ofNat_add_address]; omega)
  | draw x y n =>
    rcases ho with ⟨a, -, rfl⟩ | ⟨-, ⟨c, r, -, rfl⟩ | ⟨-, rfl⟩⟩
    · exact .raise ..
    · exact .raise ..
    · exact .setFrame _ _ _ (.inr ⟨x, y, n, rfl⟩)
  | skipKeyPressed x =>
    rcases ho with ⟨-, rfl⟩ | ⟨k, -, rfl⟩
    · exact .raise ..
    · exact .skip ..
  | skipKeyNotPressed x =>
    rcases ho with ⟨-, rfl⟩ | ⟨k, -, rfl⟩
    · exact .raise ..
    · exact .setPc _ _ (by split <;> simp)
  | waitKey x =>
    rcases ho with ⟨k, -, rfl⟩ | ⟨-, rfl⟩
    · exact .setRegs _ _ s.draws
    · exact .setPc _ _ (by simp)
  | setDelay x => subst ho; exact .setDelay x _
  | setSound x => subst ho; exact .setSound x _
  | loadIndex nnn => subst ho; exact .setIndex _ _ ⟨0, nnn, .inl rfl⟩
  | addIndex x => subst ho; exact .setIndex _ _ ⟨x, 0, .inr (.inl rfl)⟩
  | loadGlyph x => subst ho; exact .setIndex _ _ ⟨x, 0, .inr (.inr rfl)⟩
  | storeBcd x =>
    rcases ho with ⟨k, a, -, rfl⟩ | ⟨-, rfl⟩
    · exact .raise ..
    · rw [State.writeBytes_frame]; exact .setMem _ _ ⟨x, .inl rfl⟩
  | storeRegs x =>
    rcases ho with ⟨k, a, -, rfl⟩ | ⟨-, rfl⟩
    · exact .raise ..
    · rw [State.writeBytes_frame]; exact .setMem _ _ ⟨x, .inr rfl⟩
  | loadRegs x =>
    rcases ho with ⟨a, -, rfl⟩ | ⟨-, rfl⟩
    · exact .raise ..
    · rw [State.loadFirstRegs_frame]; exact .setRegs _ _ s.draws
  | random x kk => subst ho; exact .setRegs _ _ (s.draws + 1)
  | _ => subst ho; exact .setRegs _ _ s.draws

end Sys2Proof.Machine
end

section
/-! PROOFS. What each piece of the state is written by (10_state.md R22, R23, R28, R31, R32, R38). -/

namespace Sys2Proof.Machine

/-- Settles O21: of the ten effects one replaces the framebuffer and one replaces memory, and each names its instructions. -/
theorem framebufferAndMemoryHaveOnlyTheirWriters : Obligations.FramebufferAndMemoryHaveOnlyTheirWriters := by
  intro i s t h
  cases exec_effect h with
  | setFrame _ _ _ hi => exact ⟨fun _ => hi, fun hm => absurd rfl hm⟩
  | setMem _ _ hi => exact ⟨fun hf => absurd rfl hf, fun _ => hi⟩
  | _ => exact ⟨fun hf => absurd rfl hf, fun hm => absurd rfl hm⟩

/-- Settles O22: the push is call's and the pop is return's, and the pop keeps the slots. -/
theorem onlyCallAndReturnTouchTheStack : Obligations.OnlyCallAndReturnTouchTheStack := by
  intro i s t h
  cases exec_effect h with
  | call nnn => exact ⟨fun _ => .inr ⟨nnn, rfl⟩, fun _ => ⟨nnn, rfl⟩⟩
  | ret => exact ⟨fun _ => .inl rfl, fun hst => absurd rfl hst⟩
  | _ => exact ⟨fun hsp => absurd rfl hsp, fun hst => absurd rfl hst⟩

/-- Settles O23: I, DT and ST have one effect each, and no effect touches CI or `started`. -/
theorem specialRegistersHaveOnlyTheirWriters : Obligations.SpecialRegistersHaveOnlyTheirWriters := by
  intro i s t h
  cases exec_effect h with
  | setIndex _ _ hi => exact ⟨fun _ => hi, fun hd => absurd rfl hd, fun hs => absurd rfl hs, rfl, rfl⟩
  | setDelay x v => exact ⟨fun hx => absurd rfl hx, fun _ => ⟨x, rfl⟩, fun hs => absurd rfl hs, rfl, rfl⟩
  | setSound x v => exact ⟨fun hx => absurd rfl hx, fun hd => absurd rfl hd, fun _ => ⟨x, rfl⟩, rfl, rfl⟩
  | _ => exact ⟨fun hx => absurd rfl hx, fun hd => absurd rfl hd, fun hs => absurd rfl hs, rfl, rfl⟩

theorem exec_keys {i : Instr} {s t : State} (h : exec i s = .next t) : t.keys = s.keys := by
  cases exec_effect h <;> rfl

theorem exec_cfg {i : Instr} {s t : State} (h : exec i s = .next t) : t.cfg = s.cfg := by
  cases exec_effect h <;> rfl

@[simp] theorem State.endStep_keys (s : State) : s.endStep.keys = s.keys := by
  rcases s.endStep_cases with ⟨r, -, h⟩ | ⟨-, h⟩ <;> rw [h]; rfl

@[simp] theorem State.endStep_cfg (s : State) : s.endStep.cfg = s.cfg := by
  rcases s.endStep_cases with ⟨r, -, h⟩ | ⟨-, h⟩ <;> rw [h]; rfl

/-- Settles O20: no handler writes the keypad or the parameters, and neither do the fetch and the tick. -/
theorem stepNeverWritesKeypadOrParameters : Obligations.StepNeverWritesKeypadOrParameters := by
  intro s t h
  obtain ⟨-, ⟨-, rfl⟩ | ⟨-, e, -, rfl⟩ | ⟨-, i, u, -, hu, rfl⟩⟩ := step_next h
  · exact ⟨rfl, rfl⟩
  · exact ⟨rfl, rfl⟩
  · rw [State.endStep_keys, State.endStep_cfg]
    exact ⟨(exec_keys hu :), (exec_cfg hu :)⟩

end Sys2Proof.Machine
end

section
/-! PROOFS. The reach of `pc` and of the return addresses (10_state.md R25, 40_control_flow.md R108). -/

namespace Sys2Proof.Machine

@[simp] theorem State.endStep_pc (s : State) : s.endStep.pc = s.pc := by
  rcases s.endStep_cases with ⟨r, -, h⟩ | ⟨-, h⟩ <;> rw [h]; rfl

@[simp] theorem State.endStep_stack (s : State) : s.endStep.stack = s.stack := by
  rcases s.endStep_cases with ⟨r, -, h⟩ | ⟨-, h⟩ <;> rw [h]; rfl

theorem State.push_stack_le {s : State} {v : Word} (hs : ∀ k : Fin 16, s.stack[k].toNat ≤ 0x1000)
    (hv : v.toNat ≤ 0x1000) (k : Fin 16) : (s.push v).stack[k].toNat ≤ 0x1000 := by
  show ((s.stack.set (s.sp.val % 16) v)[k.val]).toNat ≤ 0x1000
  rw [Vector.getElem_set]
  split
  · exact hv
  · exact hs k

/-- A handler keeps the reach of `pc` when it starts with `pc` just past a fetched word. -/
theorem exec_pcInReach {i : Instr} {s t : State} (h : exec i s = .next t) (hlo : 2 ≤ s.pc.toNat)
    (hhi : s.pc.toNat ≤ 0x1000) (hs : ∀ k : Fin 16, s.stack[k].toNat ≤ 0x1000) : t.PcInReach := by
  have hpc : s.pc.toNat ≤ 0x10FE := by omega
  cases exec_effect h with
  | setPc _ target ht => exact ⟨show target.toNat ≤ 0x10FE by bv_omega, hs⟩
  | call nnn =>
    refine ⟨?_, State.push_stack_le hs hhi⟩
    rw [State.setPc_pc, toNat_setWidth_address]
    omega
  | ret => exact ⟨Nat.le_trans (hs ⟨(s.sp.val - 1) % 16, Nat.mod_lt _ (by decide)⟩) (by decide), hs⟩
  | _ => exact ⟨hpc, hs⟩

/-- Settles O17: the fetch leaves `pc` between 2 and 0x1000, which is what a call pushes, and every handler keeps the reach from
there (`exec_pcInReach`); a fetch fault moves nothing. -/
theorem everyStepKeepsPcInReach : Obligations.EveryStepKeepsPcInReach := by
  rintro s t ⟨hpc, hs⟩ h
  have hfetched : s.pc.toNat ≤ 0xFFE → 2 ≤ s.fetched.pc.toNat ∧ s.fetched.pc.toNat ≤ 0x1000 := by
    rw [State.fetched_eq]; intro hle; bv_omega
  obtain ⟨-, ⟨-, rfl⟩ | ⟨hle, e, -, rfl⟩ | ⟨hle, i, u, -, hu, rfl⟩⟩ := step_next h
  · exact ⟨hpc, hs⟩
  · exact ⟨Nat.le_trans (hfetched hle).2 (by decide), hs⟩
  · obtain ⟨hpcu, hsu⟩ := exec_pcInReach hu (hfetched hle).1 (hfetched hle).2 hs
    constructor
    · rwa [State.endStep_pc]
    · rwa [State.endStep_stack]

end Sys2Proof.Machine
end

section
/-! PROOFS. The reset state (10_state.md R39, 70_reset_and_hazards.md R250). -/

namespace Sys2Proof.Machine

theorem State.initial_inv (p : Params) : (State.initial p).Inv where
  memory := State.initial_wf p
  record := nofun
  quiet _ := rfl
  pulse := nofun
  fresh _ := rfl

theorem State.initial_pcInReach (p : Params) : (State.initial p).PcInReach where
  pc := show (0x200 : Word).toNat ≤ 0x10FE by decide
  slots k := by simp [State.initial]

/-- Settles O18: the reset state is the initial state of the default parameters. -/
theorem resetHasTheInvariants : Obligations.ResetHasTheInvariants :=
  have h (p : Params) := And.intro (State.initial_inv p) (State.initial_pcInReach p)
  ⟨h defaultParams, h⟩

/-- Inside the glyph table an unlisted address reads as the table's byte. -/
theorem unlisted_glyph (g : GlyphTable) (i : Fin 80) : unlisted g (0x050 + i.val) = g[i] := by
  simp [unlisted]

/-- Outside the glyph table an unlisted address reads as zero. -/
theorem unlisted_eq_zero (g : GlyphTable) {a : Nat} (h : a < 0x050 ∨ 0x0A0 ≤ a) : unlisted g a = 0 := by
  have hbase : glyphBase = 0x050 := rfl
  have hbytes : glyphBytes = 80 := rfl
  rcases h with h | h
  · exact if_neg (by omega)
  · rw [unlisted, if_pos (by omega), Vector.getElem?_eq_none (by omega)]; rfl

/-- Settles O56: a first call and the host's reset differ from each other in the count of random bytes alone, which no row of the
table speaks of, and memory lists nothing after either. -/
theorem resetStateFollowsTheTable : Obligations.ResetStateFollowsTheTable := by
  intro p s hs
  obtain ⟨n, rfl⟩ : ∃ n, s = { State.initial p with draws := n } := by
    rcases hs with rfl | ⟨u, rfl, rfl⟩
    · exact ⟨0, rfl⟩
    · exact ⟨u.draws, rfl⟩
  refine ⟨unlisted_glyph _, fun a => unlisted_eq_zero _, fun r => ?_, rfl, rfl, fun k => ?_, rfl, rfl, rfl,
    Frame.clear_pixel, fun k => ?_, rfl, rfl, rfl, rfl⟩
  all_goals exact Vector.getElem_replicate _

end Sys2Proof.Machine
end

section
/-! PROOFS. The writers of the general registers (10_state.md R22, R23). -/

namespace Sys2Proof.Machine

section
variable {s : State} {r x : Reg} {v f : Byte}

theorem State.eq_of_setReg_reg_ne (h : (s.setReg x v).reg r ≠ s.reg r) : r = x := by
  rw [State.setReg_reg] at h
  by_contra hne
  exact h (if_neg (Ne.symm hne))

theorem State.eq_flag_of_setFlag_reg_ne (h : (s.setFlag f).reg r ≠ s.reg r) : r = 0xF :=
  State.eq_of_setReg_reg_ne h

/-- A register write after a flag write, whatever the written value was read from. -/
theorem State.eq_of_setFlag_setReg_reg_ne (h : ((s.setFlag f).setReg x v).reg r ≠ s.reg r) : r = x ∨ r = 0xF := by
  by_cases hx : ((s.setFlag f).setReg x v).reg r = (s.setFlag f).reg r
  · exact .inr (State.eq_flag_of_setFlag_reg_ne (hx ▸ h))
  · exact .inl (State.eq_of_setReg_reg_ne hx)

theorem State.le_of_loadFirstRegs_reg_ne (h : (s.loadFirstRegs (x.val + 1)).reg r ≠ s.reg r) : r ≤ x := by
  rw [State.loadFirstRegs_reg _ _ x.isLt] at h
  by_contra hgt
  exact h (if_neg fun hlt => hgt (Nat.le_of_lt_succ hlt))

@[simp] theorem State.writeBytes_reg (a : Nat) (vs : List Byte) : (s.writeBytes a vs).reg r = s.reg r := by
  rw [State.writeBytes_frame]; rfl

end

/-- Settles O24: each effect is a write of `x`, a flag write and a write of `x`, a flag write alone, the first registers, or no
register at all. -/
theorem generalRegistersHaveOnlyTheirWriters : Obligations.GeneralRegistersHaveOnlyTheirWriters := by
  intro i s t r h hr
  have ho := exec_next h
  cases i with
  | loadImm | addImm | loadReg | orReg | andReg | xorReg | loadDelay =>
    subst ho; exact State.eq_of_setReg_reg_ne hr
  | random x kk => subst ho; exact State.eq_of_setReg_reg_ne (s := { s with draws := s.draws + 1 }) hr
  | addReg x y => subst ho; exact State.eq_of_setFlag_setReg_reg_ne hr
  | sub | subn | shr | shl => obtain ⟨_, rfl, rfl⟩ := ho; exact State.eq_of_setFlag_setReg_reg_ne hr
  | waitKey x =>
    rcases ho with ⟨k, -, rfl⟩ | ⟨-, rfl⟩
    · exact State.eq_of_setReg_reg_ne hr
    · exact absurd rfl hr
  | draw x y n =>
    rcases ho with ⟨a, -, rfl⟩ | ⟨-, ⟨c, w, -, rfl⟩ | ⟨-, rfl⟩⟩
    · exact absurd rfl hr
    · exact absurd rfl hr
    · exact State.eq_flag_of_setFlag_reg_ne (s := s.setFrame _) hr
  | loadRegs x =>
    rcases ho with ⟨a, -, rfl⟩ | ⟨-, rfl⟩
    · exact absurd rfl hr
    · exact State.le_of_loadFirstRegs_reg_ne hr
  | storeBcd | storeRegs =>
    rcases ho with ⟨k, a, -, rfl⟩ | ⟨-, rfl⟩
    · exact absurd rfl hr
    · exact absurd (State.writeBytes_reg _ _) hr
  | ret | call => rcases ho with ⟨-, rfl⟩ | ⟨-, rfl⟩ <;> exact absurd rfl hr
  | skipKeyPressed | skipKeyNotPressed => rcases ho with ⟨-, rfl⟩ | ⟨k, -, rfl⟩ <;> exact absurd rfl hr
  | _ => subst ho; exact absurd rfl hr

end Sys2Proof.Machine
end

section
/-! PROOFS. Where `pc` stands after a step that completes (10_state.md R24, 40_control_flow.md R109). -/

namespace Sys2Proof.Machine

/-- A step that completes is the handler from the fetched state, then the tick. -/
theorem step_completes {s t : State} {i : Instr} (hi : s.nextInstr = .ok i) (h : step s = .next t)
    (ht : t.halted = none) : ∃ u, exec i s.fetched = .next u ∧ u.halted = none ∧ t = u.tick := by
  obtain ⟨-, ⟨-, rfl⟩ | ⟨-, e, -, rfl⟩ | ⟨-, j, u, hj, hu, rfl⟩⟩ := step_next h
  · cases ht
  · cases ht
  · obtain rfl : i = j := Except.ok.inj (hi.symm.trans hj)
    rcases u.endStep_cases with ⟨r, hr, hend⟩ | ⟨hr, hend⟩ <;> rw [hend] at ht ⊢
    · rw [hr] at ht; cases ht
    · exact ⟨u, hu, hr, rfl⟩

theorem State.fetched_pc_add_two (s : State) : s.fetched.pc + 2 = s.pc + 4 := BitVec.add_assoc s.pc 2 2

theorem State.fetched_pc_sub_two (s : State) : s.fetched.pc - 2 = s.pc := BitVec.add_sub_cancel s.pc 2

theorem State.slot_val (s : State) (k : Fin 16) : s.slot k.val = s.stack[k] := by
  simp [State.slot, Nat.mod_eq_of_lt k.isLt]

/-- The entry a pop takes, with SP from 1 to 16. -/
theorem State.popPc_pc_eq {s : State} (h : s.sp ≠ 0) : ∃ k : Fin 16, s.sp = k.succ ∧ s.popPc.pc = s.stack[k] := by
  obtain ⟨k, hk⟩ := Fin.exists_succ_eq.2 h
  refine ⟨k, hk.symm, ?_⟩
  rw [← State.slot_val]
  show s.slot (s.sp.val - 1) = s.slot k.val
  rw [← hk, Fin.val_succ, Nat.add_sub_cancel]

/-- Settles O25: the handler starts with `pc` at A + 2, and the tick keeps the `pc` it leaves. -/
theorem pcAfterEveryCompletedStep : Obligations.PcAfterEveryCompletedStep := by
  refine ⟨rfl, ?_⟩
  intro s t i _ _ hi h ht
  obtain ⟨u, hu, hrun, rfl⟩ := step_completes hi h ht
  have ho := exec_next hu
  cases i with
  | ret =>
    rcases ho with ⟨-, rfl⟩ | ⟨hsp, rfl⟩
    · cases hrun
    · exact State.popPc_pc_eq hsp
  | jump nnn => subst ho; exact toNat_setWidth_address nnn
  | call nnn =>
    rcases ho with ⟨-, rfl⟩ | ⟨-, rfl⟩
    · cases hrun
    · exact toNat_setWidth_address nnn
  | jumpOffset nnn => subst ho; exact toNat_ofNat_add_address _ nnn
  | skipEqImm | skipNeImm | skipEqReg | skipNeReg =>
    subst ho; rw [State.tick_pc, State.setPc_pc, State.fetched_pc_add_two]; rfl
  | skipKeyPressed | skipKeyNotPressed =>
    rcases ho with ⟨-, rfl⟩ | ⟨k, hk, rfl⟩
    · cases hrun
    · refine ⟨k, keyOf_eq_some.1 hk, ?_⟩
      rw [State.tick_pc, State.setPc_pc, State.fetched_pc_add_two]; rfl
  | waitKey x =>
    rcases ho with ⟨k, hk, rfl⟩ | ⟨hup, rfl⟩
    · have hdown : s.keyDown k = true := (State.lowestKey_eq_some.1 hk).1
      exact ⟨fun hall => by simp [hall k] at hdown, fun _ => rfl⟩
    · have hall : ∀ k, s.keyDown k = false := State.lowestKey_eq_none.1 hup
      exact ⟨fun _ => s.fetched_pc_sub_two, fun ⟨k, hk⟩ => by simp [hall k] at hk⟩
  | sub | subn | shr | shl => obtain ⟨_, rfl, rfl⟩ := ho; rfl
  | draw x y n =>
    rcases ho with ⟨a, -, rfl⟩ | ⟨-, ⟨c, r, -, rfl⟩ | ⟨-, rfl⟩⟩
    · cases hrun
    · cases hrun
    · rfl
  | storeBcd | storeRegs =>
    rcases ho with ⟨k, a, -, rfl⟩ | ⟨-, rfl⟩
    · cases hrun
    · exact State.writeBytes_pc ..
  | loadRegs x =>
    rcases ho with ⟨a, -, rfl⟩ | ⟨-, rfl⟩
    · cases hrun
    · exact State.loadFirstRegs_pc ..
  | _ => subst ho; rfl

end Sys2Proof.Machine
end

section
/-! PROOFS. An outcome of an instruction is what exec answers: the converse of `exec_next`. -/

namespace Sys2Proof.Machine

variable {s t : State}

theorem storeAtIndex_of_fail {bytes : List Byte} {k : FaultKind} {a : Nat}
    (h : writeCheck s.cfg.protectLow (s.effAddrs bytes.length) = some (k, a)) :
    storeAtIndex bytes s = .next (s.raise k (.address a)) := by
  rw [storeAtIndex, h]; rfl

theorem storeAtIndex_of_pass {bytes : List Byte} (h : writeCheck s.cfg.protectLow (s.effAddrs bytes.length) = none) :
    storeAtIndex bytes s = .next (s.writeBytes s.index.toNat bytes) := by
  rw [storeAtIndex, h]; rfl

theorem withReads_of_fail {count a : Nat} {effect : State → Result} (h : readCheck (s.effAddrs count) = some a) :
    withReads s count effect = .next (s.raise .memoryOutOfBounds (.address a)) := by
  rw [withReads, h]; rfl

theorem withReads_of_pass {count : Nat} {effect : State → Result} (h : readCheck (s.effAddrs count) = none) :
    withReads s count effect = effect s := by
  rw [withReads, h]

theorem withKey_of_none {x : Reg} {effect : Reg → State → Result} (h : keyOf (s.reg x) = none) :
    withKey x s effect = .next (s.raise .keyIndexOutOfRange (.keyIndex (s.reg x).toNat)) := by
  rw [withKey, h]; rfl

theorem withKey_of_some {x k : Reg} {effect : Reg → State → Result} (h : keyOf (s.reg x) = some k) :
    withKey x s effect = effect k s := by
  rw [withKey, h]

theorem exec_of_outcomes {i : Instr} (h : Outcomes i s t) : exec i s = .next t := by
  cases i with
  | ret | call =>
    rcases h with ⟨h0, rfl⟩ | ⟨h0, rfl⟩
    · exact if_pos h0
    · exact if_neg h0
  | skipEqImm x kk => subst h; simp [exec, execSkipEqImm, skipIf_eq]
  | skipNeImm x kk => subst h; simp [exec, execSkipNeImm, skipIf_eq]
  | skipEqReg x y => subst h; simp [exec, execSkipEqReg, skipIf_eq]
  | skipNeReg x y => subst h; simp [exec, execSkipNeReg, skipIf_eq]
  | sub | shr | subn | shl => obtain ⟨_, rfl, rfl⟩ := h; rfl
  | draw x y n =>
    rcases h with ⟨a, hc, rfl⟩ | ⟨hc, ⟨c, r, he, rfl⟩ | ⟨he, rfl⟩⟩
    · simp only [exec, execDraw, drawAt, withReads_of_fail hc]
    · simp only [exec, execDraw, drawAt, withReads_of_pass hc, he]; rfl
    · simp only [exec, execDraw, drawAt, withReads_of_pass hc, he]
  | skipKeyPressed x =>
    rcases h with ⟨hk, rfl⟩ | ⟨k, hk, rfl⟩
    · exact withKey_of_none hk
    · exact (withKey_of_some hk).trans (skipIf_eq _)
  | skipKeyNotPressed x =>
    rcases h with ⟨hk, rfl⟩ | ⟨k, hk, rfl⟩
    · exact withKey_of_none hk
    · refine (withKey_of_some hk).trans ((skipIf_eq _).trans ?_)
      cases s.keyDown k <;> rfl
  | waitKey x =>
    rcases h with ⟨k, hk, rfl⟩ | ⟨hk, rfl⟩ <;> simp [exec, execWaitKey, hk]
  | storeBcd x =>
    rcases h with ⟨k, a, hc, rfl⟩ | ⟨hc, rfl⟩
    · exact storeAtIndex_of_fail hc
    · exact storeAtIndex_of_pass hc
  | storeRegs x =>
    rcases h with ⟨k, a, hc, rfl⟩ | ⟨hc, rfl⟩ <;> rw [← State.firstRegs_length] at hc
    · exact storeAtIndex_of_fail hc
    · exact storeAtIndex_of_pass hc
  | loadRegs x =>
    rcases h with ⟨a, hc, rfl⟩ | ⟨hc, rfl⟩
    · simp only [exec, execLoadRegs, withReads_of_fail hc]
    · simp only [exec, execLoadRegs, withReads_of_pass hc]
  | _ => subst h; rfl

end Sys2Proof.Machine
end

section
/-! PROOFS. CI, `started`, `sound_stop` and ST do not enter any completing effect (10_state.md R30, R33, R36). -/

namespace Sys2Proof.Machine

/-- The state with other values in the four pieces that no handler reads. -/
def State.withHidden (s : State) (ci : Word) (started soundStop : Bool) (sound : Byte) : State :=
  { s with ci, started, soundStop, sound }

section
variable {s t : State} {ci : Word} {started soundStop : Bool} {sound : Byte}

theorem State.withHidden_writeBytes (a : Nat) (vs : List Byte) :
    (s.writeBytes a vs).withHidden ci started soundStop sound =
      (s.withHidden ci started soundStop sound).writeBytes a vs := by
  induction vs generalizing s a with
  | nil => rfl
  | cons v vs ih => exact ih (a + 1)

theorem State.withHidden_loadFirstRegs (k : Nat) :
    (s.loadFirstRegs k).withHidden ci started soundStop sound =
      (s.withHidden ci started soundStop sound).loadFirstRegs k := by
  induction k with
  | zero => rfl
  | succ k ih => rw [State.loadFirstRegs, State.loadFirstRegs, ← ih]; rfl

/-- Every check and every value of a completing effect is read from the other pieces of the state. -/
theorem outcomes_withHidden {i : Instr} (h : Outcomes i s t) (ht : t.halted = none) (hi : ∀ x, i ≠ .setSound x) :
    Outcomes i (s.withHidden ci started soundStop sound) (t.withHidden ci started soundStop sound) := by
  cases i with
  | ret | call =>
    rcases h with ⟨-, rfl⟩ | ⟨h0, rfl⟩
    · cases ht
    · exact .inr ⟨h0, rfl⟩
  | sub | shr | subn | shl => obtain ⟨_, rfl, rfl⟩ := h; exact ⟨_, rfl, rfl⟩
  | draw x y n =>
    rcases h with ⟨a, -, rfl⟩ | ⟨hc, ⟨c, r, -, rfl⟩ | ⟨he, rfl⟩⟩
    · cases ht
    · cases ht
    · exact .inr ⟨hc, .inr ⟨he, rfl⟩⟩
  | skipKeyPressed | skipKeyNotPressed =>
    rcases h with ⟨-, rfl⟩ | ⟨k, hk, rfl⟩
    · cases ht
    · exact .inr ⟨k, hk, rfl⟩
  | waitKey x =>
    rcases h with ⟨k, hk, rfl⟩ | ⟨hk, rfl⟩
    · exact .inl ⟨k, hk, rfl⟩
    · exact .inr ⟨hk, rfl⟩
  | setSound x => exact absurd rfl (hi x)
  | storeBcd | storeRegs =>
    rcases h with ⟨k, a, -, rfl⟩ | ⟨hc, rfl⟩
    · cases ht
    · exact .inr ⟨hc, State.withHidden_writeBytes ..⟩
  | loadRegs x =>
    rcases h with ⟨a, -, rfl⟩ | ⟨hc, rfl⟩
    · cases ht
    · exact .inr ⟨hc, State.withHidden_loadFirstRegs _⟩
  | _ => subst h; rfl

end

theorem exec_withHidden {i : Instr} {s t : State} (h : exec i s = .next t) (ht : t.halted = none)
    (hi : ∀ x, i ≠ .setSound x) (ci : Word) (started soundStop : Bool) (sound : Byte) :
    exec i (s.withHidden ci started soundStop sound) = .next (t.withHidden ci started soundStop sound) :=
  exec_of_outcomes (outcomes_withHidden (exec_next h) ht hi)

theorem exec_soundStop {i : Instr} {s t : State} (h : exec i s = .next t) : t.soundStop = s.soundStop := by
  cases exec_effect h <;> rfl

/-- Settles O27: `exec_withHidden` with ST as it was, then with the other three as they were; set-sound, which that lemma leaves
out, runs by computation. -/
theorem hiddenStateIsNotObservable : Obligations.HiddenStateIsNotObservable := by
  intro i s t w b c _ h ht
  obtain ⟨-, -, hsound, hci, hstarted⟩ := specialRegistersHaveOnlyTheirWriters i s t h
  constructor
  · by_cases hi : ∃ x, i = .setSound x
    · obtain ⟨x, rfl⟩ := hi
      cases h; rfl
    · have hkept : t.sound = s.sound := not_not.1 (mt hsound hi)
      have hrun := exec_withHidden h ht (fun x hx => hi ⟨x, hx⟩) w b c s.sound
      exact hrun.trans (by rw [← hkept]; rfl)
  · intro v hi
    have hrun := exec_withHidden h ht hi s.ci s.started s.soundStop v
    exact hrun.trans (by rw [← hci, ← hstarted, ← exec_soundStop h]; rfl)

end Sys2Proof.Machine
end

section
/-! PROOFS. The machine invariant (20_memory.md R50, 60_exceptions.md R211, R221, R228, R230, 10_state.md R36). -/

namespace Sys2Proof.Machine

variable {s t : State} {i : Instr}

/-- Only the two stores write memory, byte by byte. -/
theorem exec_wf (h : exec i s = .next t) (hs : Memory.wf s.cfg.glyphTable s.mem = true) :
    Memory.wf t.cfg.glyphTable t.mem = true := by
  rw [exec_cfg h]
  by_cases hmem : t.mem = s.mem
  · rwa [hmem]
  · obtain ⟨x, rfl | rfl⟩ := (framebufferAndMemoryHaveOnlyTheirWriters i s t h).2 hmem
    all_goals
      rcases exec_next h with ⟨k, a, -, rfl⟩ | ⟨-, rfl⟩
      · exact hs
      · exact s.writeBytes_wf _ _ hs

/-- A failing store raises one of two kinds (20_memory.md R52, R58). -/
theorem writeCheck_kind {p : LowProtect} {l : List Nat} {k : FaultKind} {a : Nat} (h : writeCheck p l = some (k, a)) :
    k = .memoryOutOfBounds ∨ k = .reservedWrite := by
  induction l with
  | nil => cases h
  | cons b l ih =>
    cases hb : writeCheckOne p b with
    | none => rw [writeCheck, hb] at h; exact ih h
    | some kind =>
      rw [writeCheck, hb] at h
      cases h
      rw [writeCheckOne] at hb
      split at hb
      · cases hb; exact .inl rfl
      · split at hb
        · cases hb; exact .inr rfl
        · cases hb

/-- A record latched by decode or execute fills both places, so its kind must be neither of the two that leave one empty
(60_exceptions.md R211). -/
theorem State.raise_record_wf {k : FaultKind} {d : FaultDetail} (hf : k ≠ .fetchOutOfBounds) (hp : k ≠ .programTooLarge) :
    ∀ r, (s.raise k d).halted = some r → r.wf = true := by
  rintro _ ⟨⟩
  cases k with
  | fetchOutOfBounds => exact absurd rfl hf
  | programTooLarge => exact absurd rfl hp
  | _ => rfl

/-- No handler raises FetchOutOfBounds or ProgramTooLarge. -/
theorem exec_record_wf (h : exec i s = .next t) (hs : s.halted = none) : ∀ r, t.halted = some r → r.wf = true := by
  have ho := exec_next h
  have hkept : t.halted = s.halted → ∀ r, t.halted = some r → r.wf = true := by
    intro ht r hr; rw [ht, hs] at hr; cases hr
  cases i with
  | ret | call =>
    rcases ho with ⟨-, rfl⟩ | ⟨-, rfl⟩
    · exact State.raise_record_wf nofun nofun
    · exact hkept rfl
  | draw x y n =>
    rcases ho with ⟨a, -, rfl⟩ | ⟨-, ⟨c, r, -, rfl⟩ | ⟨-, rfl⟩⟩
    · exact State.raise_record_wf nofun nofun
    · exact State.raise_record_wf nofun nofun
    · exact hkept rfl
  | skipKeyPressed | skipKeyNotPressed =>
    rcases ho with ⟨-, rfl⟩ | ⟨k, -, rfl⟩
    · exact State.raise_record_wf nofun nofun
    · exact hkept rfl
  | storeBcd | storeRegs =>
    rcases ho with ⟨k, a, hc, rfl⟩ | ⟨-, rfl⟩
    · rcases writeCheck_kind hc with rfl | rfl <;> exact State.raise_record_wf nofun nofun
    · exact hkept (State.writeBytes_halted ..)
  | loadRegs x =>
    rcases ho with ⟨a, -, rfl⟩ | ⟨-, rfl⟩
    · exact State.raise_record_wf nofun nofun
    · exact hkept (State.loadFirstRegs_halted ..)
  | waitKey x => rcases ho with ⟨k, -, rfl⟩ | ⟨-, rfl⟩ <;> exact hkept rfl
  | sub | shr | subn | shl => obtain ⟨_, rfl, rfl⟩ := ho; exact hkept rfl
  | _ => subst ho; exact hkept rfl

/-- While `sound_stop` is false, the invariant is about memory and the record only. -/
theorem State.inv_of_soundStop_false (hmem : Memory.wf s.cfg.glyphTable s.mem = true)
    (hrec : ∀ r, s.halted = some r → r.wf = true) (hstop : s.soundStop = false) : s.Inv where
  memory := hmem
  record := hrec
  quiet _ := hstop
  pulse h := by rw [hstop] at h; cases h
  fresh _ := hstop

/-- The tick pulses only when it takes ST from 1 to 0 (60_exceptions.md R228). -/
theorem State.Inv.tick (h : s.Inv) (hrun : s.halted = none) (hstarted : s.started = true) : s.tick.Inv where
  memory := h.memory
  record := h.record
  quiet hh := absurd hrun hh
  pulse hp := by
    have hone : s.sound = 1 := of_decide_eq_true hp
    rw [State.tick_sound, hone]; rfl
  fresh hf := by rw [State.tick_started, hstarted] at hf; cases hf

theorem State.Inv.endStep (h : s.Inv) (hstarted : s.started = true) : s.endStep.Inv := by
  rcases s.endStep_cases with ⟨r, -, hend⟩ | ⟨hrun, hend⟩ <;> rw [hend]
  · exact h
  · exact h.tick hrun hstarted

/-- Settles O16: every step begins with `sound_stop` false, and only the tick of a completed step can set it. -/
theorem everyStepKeepsTheInvariant : Obligations.EveryStepKeepsTheInvariant := by
  intro s t hs h
  obtain ⟨hrun, ⟨-, rfl⟩ | ⟨-, e, -, rfl⟩ | ⟨-, i, u, -, hu, rfl⟩⟩ := step_next h
  · exact State.inv_of_soundStop_false hs.memory (by rintro _ ⟨⟩; rfl) rfl
  · exact State.inv_of_soundStop_false hs.memory (State.raise_record_wf nofun nofun) rfl
  · obtain ⟨-, -, -, -, hstarted⟩ := specialRegistersHaveOnlyTheirWriters i s.fetched u hu
    have hstop : u.soundStop = false := exec_soundStop hu
    exact (State.inv_of_soundStop_false (exec_wf hu hs.memory) (exec_record_wf hu hrun) hstop).endStep hstarted

end Sys2Proof.Machine
end

section
/-! PROOFS. Register transfers and the byte order of a fetch (20_memory.md R54, R55, 42_index_memory.md R154, R155). -/

namespace Sys2Proof.Machine

variable {s t : State} {x r : Reg}

theorem State.fetch16_toNat (s : State) (a : Nat) :
    (s.fetch16 a).toNat = (s.readByte a).toNat * 256 + (s.readByte (a + 1)).toNat :=
  wordOfBytes_toNat _ _

/-- The byte that a completed store-regs leaves for register `r`. -/
theorem storeRegs_readByte (h : exec (.storeRegs x) s = .next t) (ht : t.halted = none) (hr : r ≤ x) :
    t.readByte (s.index.toNat + r.val) = s.reg r := by
  have hlt : r.val < x.val + 1 := Nat.lt_succ_of_le hr
  rcases exec_next h with ⟨k, a, -, rfl⟩ | ⟨hc, rfl⟩
  · cases ht
  · have hin : s.index.toNat + r.val ≤ 0xFFF :=
      (writeCheck_eq_none.1 hc _ (State.mem_effAddrs.2 ⟨r.val, hlt, rfl⟩)).1
    have hcond : s.index.toNat ≤ s.index.toNat + r.val ∧
        s.index.toNat + r.val < s.index.toNat + (s.firstRegs x).length ∧ s.index.toNat + r.val < 4096 := by
      rw [State.firstRegs_length]; omega
    rw [State.readByte_writeBytes, if_pos hcond, Nat.add_sub_cancel_left, State.firstRegs_getElem? hr, Option.getD_some]

/-- The value that a completed load-regs gives register `r`. -/
theorem loadRegs_reg (h : exec (.loadRegs x) s = .next t) (ht : t.halted = none) (hr : r ≤ x) :
    t.reg r = s.readByte (s.index.toNat + r.val) := by
  rcases exec_next h with ⟨a, -, rfl⟩ | ⟨-, rfl⟩
  · cases ht
  · rw [State.loadFirstRegs_reg _ _ x.isLt, if_pos (Nat.lt_succ_of_le hr)]

/-- Settles O44: register `r` stands at `I + r`, the high byte's address, and register `r + 1` at the next. -/
theorem storedBytesAreFetchedBigEndian : Obligations.StoredBytesAreFetchedBigEndian := by
  intro x r r' s t hnext hle' hkept
  have hle : r ≤ x := Fin.le_def.2 (by rw [Fin.le_def] at hle'; omega)
  have haddr : s.index.toNat + r.val + 1 = s.index.toNat + r'.val := by omega
  constructor
  · intro h hs
    have ht : t.halted = none := hkept.trans hs
    rw [State.fetch16_toNat, haddr, storeRegs_readByte h ht hle, storeRegs_readByte h ht hle']
  · intro h hs
    have ht : t.halted = none := hkept.trans hs
    rw [State.fetch16_toNat, haddr, loadRegs_reg h ht hle, loadRegs_reg h ht hle']

end Sys2Proof.Machine
end

section
/-! PROOFS. The decoder's rule as one relation (30_encoding.md R71, R73 to R78, R87): which words stand for an instruction when
sub-keys are read as full bytes. The decoder is held to it once, in both directions, and the claims about words go through it. -/

namespace Sys2Proof

/-- `w`'s group and full sub-key are those of `i`'s row, and `i`'s operands are `w`'s fields. -/
def Decodes (w : Word) (i : Instr) : Prop :=
  match i with
  | .clearScreen => groupOf w = 0x0 ∧ lowByte w = 0xE0
  | .ret => groupOf w = 0x0 ∧ lowByte w = 0xEE
  | .jump nnn => groupOf w = 0x1 ∧ nnn = nnnField w
  | .call nnn => groupOf w = 0x2 ∧ nnn = nnnField w
  | .skipEqImm x kk => groupOf w = 0x3 ∧ x = xField w ∧ kk = kkField w
  | .skipNeImm x kk => groupOf w = 0x4 ∧ x = xField w ∧ kk = kkField w
  | .skipEqReg x y => groupOf w = 0x5 ∧ x = xField w ∧ y = yField w
  | .loadImm x kk => groupOf w = 0x6 ∧ x = xField w ∧ kk = kkField w
  | .addImm x kk => groupOf w = 0x7 ∧ x = xField w ∧ kk = kkField w
  | .loadReg x y => groupOf w = 0x8 ∧ lowNibble w = 0x0 ∧ x = xField w ∧ y = yField w
  | .orReg x y => groupOf w = 0x8 ∧ lowNibble w = 0x1 ∧ x = xField w ∧ y = yField w
  | .andReg x y => groupOf w = 0x8 ∧ lowNibble w = 0x2 ∧ x = xField w ∧ y = yField w
  | .xorReg x y => groupOf w = 0x8 ∧ lowNibble w = 0x3 ∧ x = xField w ∧ y = yField w
  | .addReg x y => groupOf w = 0x8 ∧ lowNibble w = 0x4 ∧ x = xField w ∧ y = yField w
  | .sub x y => groupOf w = 0x8 ∧ lowNibble w = 0x5 ∧ x = xField w ∧ y = yField w
  | .shr x => groupOf w = 0x8 ∧ lowNibble w = 0x6 ∧ x = xField w
  | .subn x y => groupOf w = 0x8 ∧ lowNibble w = 0x7 ∧ x = xField w ∧ y = yField w
  | .shl x => groupOf w = 0x8 ∧ lowNibble w = 0xE ∧ x = xField w
  | .skipNeReg x y => groupOf w = 0x9 ∧ x = xField w ∧ y = yField w
  | .loadIndex nnn => groupOf w = 0xA ∧ nnn = nnnField w
  | .jumpOffset nnn => groupOf w = 0xB ∧ nnn = nnnField w
  | .random x kk => groupOf w = 0xC ∧ x = xField w ∧ kk = kkField w
  | .draw x y n => groupOf w = 0xD ∧ x = xField w ∧ y = yField w ∧ n = lowNibble w
  | .skipKeyPressed x => groupOf w = 0xE ∧ lowByte w = 0x9E ∧ x = xField w
  | .skipKeyNotPressed x => groupOf w = 0xE ∧ lowByte w = 0xA1 ∧ x = xField w
  | .loadDelay x => groupOf w = 0xF ∧ lowByte w = 0x07 ∧ x = xField w
  | .waitKey x => groupOf w = 0xF ∧ lowByte w = 0x0A ∧ x = xField w
  | .setDelay x => groupOf w = 0xF ∧ lowByte w = 0x15 ∧ x = xField w
  | .setSound x => groupOf w = 0xF ∧ lowByte w = 0x18 ∧ x = xField w
  | .addIndex x => groupOf w = 0xF ∧ lowByte w = 0x1E ∧ x = xField w
  | .loadGlyph x => groupOf w = 0xF ∧ lowByte w = 0x29 ∧ x = xField w
  | .storeBcd x => groupOf w = 0xF ∧ lowByte w = 0x33 ∧ x = xField w
  | .storeRegs x => groupOf w = 0xF ∧ lowByte w = 0x55 ∧ x = xField w
  | .loadRegs x => groupOf w = 0xF ∧ lowByte w = 0x65 ∧ x = xField w

variable {w : Word} {i : Instr} {key0 keyE : SubKey}

theorem groupOf_lt (w : Word) : groupOf w < 16 := by rw [groupOf]; omega

theorem lowNibble_lt (w : Word) : lowNibble w < 16 := Nat.mod_lt _ (by decide)

theorem lowByte_lt (w : Word) : lowByte w < 256 := Nat.mod_lt _ (by decide)

/-- The low nibble as a part of the low byte. -/
theorem lowByte_mod_16 (w : Word) : lowByte w % 16 = lowNibble w := Nat.mod_mod_of_dvd _ (by decide)

/-! ### The four divided groups (30_encoding.md R74) -/

theorem decode_group0 (h : groupOf w = 0x0) : decode key0 keyE w = decodeGroup0 key0 w := by simp only [decode, h]

theorem decode_group8 (h : groupOf w = 0x8) : decode key0 keyE w = decodeGroup8 w := by simp only [decode, h]

theorem decode_groupE (h : groupOf w = 0xE) : decode key0 keyE w = decodeGroupE keyE w := by simp only [decode, h]

theorem decode_groupF (h : groupOf w = 0xF) : decode key0 keyE w = decodeGroupF w := by simp only [decode, h]

/-- A full sub-key selects under every setting of the key parameters. -/
theorem decode_of_decodes (h : Decodes w i) : decode key0 keyE w = .ok i := by
  cases i with
  | clearScreen | ret => obtain ⟨hg, hb⟩ := h; simp [decode_group0 hg, decodeGroup0, hb]
  | jump | call | loadIndex | jumpOffset => obtain ⟨hg, rfl⟩ := h; simp only [decode, hg]
  | skipEqImm | skipNeImm | skipEqReg | loadImm | addImm | skipNeReg | random =>
    obtain ⟨hg, rfl, rfl⟩ := h; simp only [decode, hg]
  | loadReg | orReg | andReg | xorReg | addReg | sub | subn =>
    obtain ⟨hg, hn, rfl, rfl⟩ := h; simp only [decode_group8 hg, decodeGroup8, hn]
  | shr | shl => obtain ⟨hg, hn, rfl⟩ := h; simp only [decode_group8 hg, decodeGroup8, hn]
  | draw => obtain ⟨hg, rfl, rfl, rfl⟩ := h; simp only [decode, hg]
  | skipKeyPressed | skipKeyNotPressed => obtain ⟨hg, hb, rfl⟩ := h; simp [decode_groupE hg, decodeGroupE, hb]
  | loadDelay | waitKey | setDelay | setSound | addIndex | loadGlyph | storeBcd | storeRegs | loadRegs =>
    obtain ⟨hg, hb, rfl⟩ := h; simp only [decode_groupF hg, decodeGroupF, hb]

theorem decodes_of_decodeGroup0 (hg : groupOf w = 0x0) (h : decodeGroup0 .lowByte w = .ok i) : Decodes w i := by
  simp only [decodeGroup0, reduceCtorEq, false_and, if_false] at h
  split at h
  · cases h; exact ⟨hg, ‹_›⟩
  · split at h
    · cases h; exact ⟨hg, ‹_›⟩
    · cases h

theorem decodes_of_decodeGroup8 (hg : groupOf w = 0x8) (h : decodeGroup8 w = .ok i) : Decodes w i := by
  unfold decodeGroup8 at h
  split at h <;> cases h
  case h_7 hn | h_9 hn => exact ⟨hg, hn, rfl⟩
  all_goals exact ⟨hg, ‹_›, rfl, rfl⟩

theorem decodes_of_decodeGroupE (hg : groupOf w = 0xE) (h : decodeGroupE .lowByte w = .ok i) : Decodes w i := by
  simp only [decodeGroupE, reduceCtorEq, false_and, if_false] at h
  split at h
  · cases h; exact ⟨hg, ‹_›, rfl⟩
  · split at h
    · cases h; exact ⟨hg, ‹_›, rfl⟩
    · cases h

theorem decodes_of_decodeGroupF (hg : groupOf w = 0xF) (h : decodeGroupF w = .ok i) : Decodes w i := by
  unfold decodeGroupF at h
  split at h <;> cases h
  all_goals exact ⟨hg, ‹_›, rfl⟩

theorem decodes_of_decode (h : decode .lowByte .lowByte w = .ok i) : Decodes w i := by
  unfold decode at h
  split at h
  case h_1 hg => exact decodes_of_decodeGroup0 hg h
  case h_9 hg => exact decodes_of_decodeGroup8 hg h
  case h_15 hg => exact decodes_of_decodeGroupE hg h
  case h_16 =>
    have hlt := groupOf_lt w
    simp only [imp_false] at *
    exact decodes_of_decodeGroupF (by omega) h
  case h_14 hg => cases h; exact ⟨hg, rfl, rfl, rfl⟩
  case h_2 hg | h_3 hg | h_11 hg | h_12 hg => cases h; exact ⟨hg, rfl⟩
  all_goals cases h; exact ⟨‹_›, rfl, rfl⟩

/-- With the default keys the decoder is the relation. -/
theorem decode_eq_ok_iff : decode .lowByte .lowByte w = .ok i ↔ Decodes w i :=
  ⟨decodes_of_decode, decode_of_decodes⟩

end Sys2Proof
end

section
/-! PROOFS. Decoding and encoding undo each other (30_encoding.md R71, R73 to R78, R87; 20_memory.md R54): the fields of each format's
word are what it was built from, and a word is rebuilt from its fields up to the bits its format ignores. -/

namespace Sys2Proof

section FieldsOfFormats

variable {group : Nat} (hg : group < 16)
include hg

@[simp] theorem groupOf_formatA (nnn : BitVec 12) : groupOf (formatA group nnn) = group := by
  rw [groupOf, formatA_toNat nnn hg]; omega

@[simp] theorem nnnField_formatA (nnn : BitVec 12) : nnnField (formatA group nnn) = nnn := by
  apply BitVec.eq_of_toNat_eq
  rw [nnnField, BitVec.toNat_ofNat, formatA_toNat nnn hg]; omega

@[simp] theorem groupOf_formatXK (x : Reg) (kk : Byte) : groupOf (formatXK group x kk) = group := by
  rw [groupOf, formatXK_toNat x kk hg]; omega

@[simp] theorem xField_formatXK (x : Reg) (kk : Byte) : xField (formatXK group x kk) = x := by
  apply Fin.ext
  simp only [xField, formatXK_toNat x kk hg]; omega

@[simp] theorem kkField_formatXK (x : Reg) (kk : Byte) : kkField (formatXK group x kk) = kk := by
  apply BitVec.eq_of_toNat_eq
  rw [kkField, BitVec.toNat_ofNat, formatXK_toNat x kk hg]; omega

variable {low : Nat} (hl : low < 16)
include hl

@[simp] theorem groupOf_formatXY (x y : Reg) : groupOf (formatXY group x y low) = group := by
  rw [groupOf, formatXY_toNat x y hg hl]; omega

@[simp] theorem xField_formatXY (x y : Reg) : xField (formatXY group x y low) = x := by
  apply Fin.ext
  simp only [xField, formatXY_toNat x y hg hl]; omega

@[simp] theorem yField_formatXY (x y : Reg) : yField (formatXY group x y low) = y := by
  apply Fin.ext
  simp only [yField, formatXY_toNat x y hg hl]; omega

@[simp] theorem lowNibble_formatXY (x y : Reg) : lowNibble (formatXY group x y low) = low := by
  rw [lowNibble, formatXY_toNat x y hg hl]; omega

omit hl
variable {key : Nat} (hk : key < 256)
include hk

@[simp] theorem groupOf_formatXS (x : Reg) : groupOf (formatXS group x key) = group := by
  rw [groupOf, formatXS_toNat x hg hk]; omega

@[simp] theorem xField_formatXS (x : Reg) : xField (formatXS group x key) = x := by
  apply Fin.ext
  simp only [xField, formatXS_toNat x hg hk]; omega

@[simp] theorem lowByte_formatXS (x : Reg) : lowByte (formatXS group x key) = key := by
  rw [lowByte, formatXS_toNat x hg hk]; omega

end FieldsOfFormats

/-- An instruction stands for its own word. -/
theorem decodes_encode {i : Instr} (h : i.wf = true) : Decodes (encode i) i := by
  cases i with
  | clearScreen | ret => exact ⟨rfl, rfl⟩
  | draw x y n =>
    have hn : n < 16 := Nat.lt_succ_of_le (of_decide_eq_true h)
    simp [Decodes, encode, hn]
  | _ => simp [Decodes, encode]

/-- 20_memory.md R54: the two bytes of a word, put together again. -/
@[simp] theorem wordOfBytes_highByte_lowByteOf (w : Word) : wordOfBytes (highByte w) (lowByteOf w) = w := by
  apply BitVec.eq_of_toNat_eq
  rw [Machine.wordOfBytes_toNat, highByte, lowByteOf, BitVec.toNat_ofNat, BitVec.toNat_ofNat]; omega

theorem decodeBytes_encodeBytes {key0 keyE : SubKey} {i j : Instr} (rest : List Byte)
    (h : decode key0 keyE (encode i) = .ok j) : decodeBytes key0 keyE (encodeBytes i ++ rest) = .ok (j, rest) := by
  simp only [encodeBytes, List.cons_append, List.nil_append, decodeBytes, wordOfBytes_highByte_lowByteOf, h]

/-- Settles O1: a full sub-key is what `encode` writes, and it selects under every setting of the key parameters. -/
theorem decodeOfEncodeIsTheInstruction : Obligations.DecodeOfEncodeIsTheInstruction := by
  intro key0 keyE i rest hwf
  have h : decode key0 keyE (encode i) = .ok i := decode_of_decodes (decodes_encode hwf)
  exact ⟨h, decodeBytes_encodeBytes rest h⟩

/-! ### A word from its fields -/

/-- Masking a 16-bit number with all but bits `lo` to `hi - 1`. -/
theorem and_mask_cut {n lo hi : Nat} (hn : n < 2 ^ 16) (hlo : lo ≤ hi) (hhi : hi ≤ 16) :
    n &&& (2 ^ hi * (2 ^ (16 - hi) - 1) + (2 ^ lo - 1)) = 2 ^ hi * (n / 2 ^ hi) + n % 2 ^ lo := by
  have hpow : 2 ^ lo ≤ 2 ^ hi := Nat.pow_le_pow_right (by decide) hlo
  have hpos : 0 < 2 ^ lo := Nat.two_pow_pos lo
  apply Nat.eq_of_testBit_eq
  intro j
  rw [Nat.testBit_and, Nat.testBit_two_pow_mul_add _ (by omega),
    Nat.testBit_two_pow_mul_add _ (Nat.lt_of_lt_of_le (Nat.mod_lt n hpos) hpow), Nat.testBit_mod_two_pow,
    Nat.testBit_two_pow_sub_one, Nat.testBit_two_pow_sub_one, Nat.testBit_div_two_pow]
  by_cases hj : j < hi
  · rw [if_pos hj, if_pos hj, Bool.and_comm]
  · rw [if_neg hj, if_neg hj, Nat.sub_add_cancel (Nat.le_of_not_lt hj)]
    by_cases hbit : n.testBit j = true
    · have : j < 16 := (Nat.pow_lt_pow_iff_right (by decide)).1 (Nat.lt_of_le_of_lt (Nat.ge_two_pow_of_testBit hbit) hn)
      simp [hbit]; omega
    · simp [hbit]

theorem toNat_and_F0FF (w : Word) : (w &&& 0xF0FF).toNat = w.toNat / 4096 * 4096 + w.toNat % 256 :=
  (BitVec.toNat_and w 0xF0FF).trans (and_mask_F0FF w.isLt)

theorem toNat_and_FFF0 (w : Word) : (w &&& 0xFFF0).toNat = 16 * (w.toNat / 16) := by
  rw [BitVec.toNat_and]
  exact (and_mask_cut (lo := 0) (hi := 4) w.isLt (by decide) (by decide)).trans (by omega)

theorem toNat_and_FF0F (w : Word) : (w &&& 0xFF0F).toNat = 256 * (w.toNat / 256) + w.toNat % 16 := by
  rw [BitVec.toNat_and]
  exact and_mask_cut (lo := 4) (hi := 8) w.isLt (by decide) (by decide)

@[simp] theorem and_FFFF (w : Word) : w &&& 0xFFFF = w := BitVec.and_allOnes

section FormatsOfFields

variable {w : Word} {group : Nat} (hg : groupOf w = group)
include hg

theorem formatA_fields : formatA group (nnnField w) = w := by
  subst hg
  apply BitVec.eq_of_toNat_eq
  rw [formatA_toNat _ (groupOf_lt w), nnnField, BitVec.toNat_ofNat, groupOf]; omega

theorem formatXK_fields : formatXK group (xField w) (kkField w) = w := by
  subst hg
  apply BitVec.eq_of_toNat_eq
  rw [formatXK_toNat _ _ (groupOf_lt w), kkField, BitVec.toNat_ofNat]; simp only [xField, groupOf]; omega

theorem formatXY_fields {low : Nat} (hn : lowNibble w = low) : formatXY group (xField w) (yField w) low = w := by
  subst hg hn
  apply BitVec.eq_of_toNat_eq
  rw [formatXY_toNat _ _ (groupOf_lt w) (lowNibble_lt w)]; simp only [xField, yField, groupOf, lowNibble]; omega

theorem formatXY_fields_and_FFF0 : formatXY group (xField w) (yField w) 0 = w &&& 0xFFF0 := by
  subst hg
  apply BitVec.eq_of_toNat_eq
  rw [formatXY_toNat _ _ (groupOf_lt w) (by decide), toNat_and_FFF0]; simp only [xField, yField, groupOf]; omega

theorem formatXY_fields_and_FF0F {low : Nat} (hn : lowNibble w = low) :
    formatXY group (xField w) 0 low = w &&& 0xFF0F := by
  subst hg hn
  apply BitVec.eq_of_toNat_eq
  rw [formatXY_toNat _ _ (groupOf_lt w) (lowNibble_lt w), toNat_and_FF0F]
  simp only [xField, groupOf, lowNibble, Fin.val_zero]; omega

theorem formatXS_fields {key : Nat} (hb : lowByte w = key) : formatXS group (xField w) key = w := by
  subst hg hb
  apply BitVec.eq_of_toNat_eq
  rw [formatXS_toNat _ (groupOf_lt w) (lowByte_lt w)]; simp only [xField, groupOf, lowByte]; omega

theorem wordOf_and_F0FF {key : Nat} (hb : lowByte w = key) : wordOf group key = w &&& 0xF0FF := by
  subst hg hb
  apply BitVec.eq_of_toNat_eq
  rw [toNat_and_F0FF, wordOf, BitVec.toNat_ofNat, groupOf, lowByte]; omega

end FormatsOfFields

/-- An instruction's word is every word that stands for it, with the ignored bits at zero. -/
theorem encode_of_decodes {w : Word} {i : Instr} (h : Decodes w i) : encode i = w &&& usedBits i := by
  cases i with
  | clearScreen | ret => obtain ⟨hg, hb⟩ := h; exact wordOf_and_F0FF hg hb
  | skipEqReg | skipNeReg => obtain ⟨hg, rfl, rfl⟩ := h; exact formatXY_fields_and_FFF0 hg
  | shr | shl => obtain ⟨hg, hn, rfl⟩ := h; exact formatXY_fields_and_FF0F hg hn
  | jump | call | loadIndex | jumpOffset =>
    obtain ⟨hg, rfl⟩ := h; exact (formatA_fields hg).trans (and_FFFF w).symm
  | skipEqImm | skipNeImm | loadImm | addImm | random =>
    obtain ⟨hg, rfl, rfl⟩ := h; exact (formatXK_fields hg).trans (and_FFFF w).symm
  | loadReg | orReg | andReg | xorReg | addReg | sub | subn =>
    obtain ⟨hg, hn, rfl, rfl⟩ := h; exact (formatXY_fields hg hn).trans (and_FFFF w).symm
  | draw => obtain ⟨hg, rfl, rfl, rfl⟩ := h; exact (formatXY_fields hg rfl).trans (and_FFFF w).symm
  | skipKeyPressed | skipKeyNotPressed | loadDelay | waitKey | setDelay | setSound | addIndex | loadGlyph | storeBcd
  | storeRegs | loadRegs =>
    obtain ⟨hg, hb, rfl⟩ := h; exact (formatXS_fields hg hb).trans (and_FFFF w).symm

/-- Settles O2: a word's group, sub-key and operand fields are all its used bits. -/
theorem encodeOfDecodeKeepsEveryUsedBit : Obligations.EncodeOfDecodeKeepsEveryUsedBit :=
  fun _ _ h => encode_of_decodes (decodes_of_decode h)

end Sys2Proof
end

section
/-! PROOFS. The opcode map against the decoder (30_encoding.md R87): what the words of each row decode to, and that each word that
decodes selects the one row of its instruction. -/

namespace Sys2Proof.Laws.EncodesInItsRow

/-- The family for all 34 instructions. -/
theorem all : ∀ i : Instr, Statement i
  | .clearScreen => clearScreen
  | .ret => ret
  | .jump nnn => jump nnn
  | .call nnn => call nnn
  | .skipEqImm x kk => skipEqImm x kk
  | .skipNeImm x kk => skipNeImm x kk
  | .skipEqReg x y => skipEqReg x y
  | .loadImm x kk => loadImm x kk
  | .addImm x kk => addImm x kk
  | .loadReg x y => loadReg x y
  | .orReg x y => orReg x y
  | .andReg x y => andReg x y
  | .xorReg x y => xorReg x y
  | .addReg x y => addReg x y
  | .sub x y => sub x y
  | .shr x => shr x
  | .subn x y => subn x y
  | .shl x => shl x
  | .skipNeReg x y => skipNeReg x y
  | .loadIndex nnn => loadIndex nnn
  | .jumpOffset nnn => jumpOffset nnn
  | .random x kk => random x kk
  | .draw x y n => draw x y n
  | .skipKeyPressed x => skipKeyPressed x
  | .skipKeyNotPressed x => skipKeyNotPressed x
  | .loadDelay x => loadDelay x
  | .waitKey x => waitKey x
  | .setDelay x => setDelay x
  | .setSound x => setSound x
  | .addIndex x => addIndex x
  | .loadGlyph x => loadGlyph x
  | .storeBcd x => storeBcd x
  | .storeRegs x => storeRegs x
  | .loadRegs x => loadRegs x

end Sys2Proof.Laws.EncodesInItsRow

namespace Sys2Proof.Machine

/-! ### Each row of the map, under every setting of the key parameters -/

section

variable {pattern : Word} {f : Word → Instr}

theorem decodesTo_F000 (h : ∀ w, groupOf w = pattern.toNat / 4096 → Decodes w (f w)) : decodesTo 0xF000 pattern f := by
  intro key0 keyE w hw
  have hnum := (OpRow.selects_F000 "" pattern w).1 (beq_iff_eq.2 hw)
  exact decode_of_decodes (h w (by rw [groupOf]; omega))

theorem decodesTo_F0FF
    (h : ∀ w, groupOf w = pattern.toNat / 4096 → lowByte w = pattern.toNat % 256 → Decodes w (f w)) :
    decodesTo 0xF0FF pattern f := by
  intro key0 keyE w hw
  have hnum := (OpRow.selects_F0FF "" pattern w).1 (beq_iff_eq.2 hw)
  exact decode_of_decodes (h w (by rw [groupOf]; omega) (by rw [lowByte]; omega))

theorem decodesTo_F00F
    (h : ∀ w, groupOf w = pattern.toNat / 4096 → lowNibble w = pattern.toNat % 16 → Decodes w (f w)) :
    decodesTo 0xF00F pattern f := by
  intro key0 keyE w hw
  have hnum := (OpRow.selects_F00F "" pattern w).1 (beq_iff_eq.2 hw)
  exact decode_of_decodes (h w (by rw [groupOf]; omega) (by rw [lowNibble]; omega))

end

theorem decodesTo_clearScreen : decodesTo 0xF0FF 0x00E0 (fun _ => .clearScreen) :=
  decodesTo_F0FF fun _ hg hb => ⟨hg, hb⟩

theorem decodesTo_ret : decodesTo 0xF0FF 0x00EE (fun _ => .ret) :=
  decodesTo_F0FF fun _ hg hb => ⟨hg, hb⟩

theorem decodesTo_jump : decodesTo 0xF000 0x1000 (fun w => .jump (nnnField w)) :=
  decodesTo_F000 fun _ hg => ⟨hg, rfl⟩

theorem decodesTo_call : decodesTo 0xF000 0x2000 (fun w => .call (nnnField w)) :=
  decodesTo_F000 fun _ hg => ⟨hg, rfl⟩

theorem decodesTo_skipEqImm : decodesTo 0xF000 0x3000 (fun w => .skipEqImm (xField w) (kkField w)) :=
  decodesTo_F000 fun _ hg => ⟨hg, rfl, rfl⟩

theorem decodesTo_skipNeImm : decodesTo 0xF000 0x4000 (fun w => .skipNeImm (xField w) (kkField w)) :=
  decodesTo_F000 fun _ hg => ⟨hg, rfl, rfl⟩

theorem decodesTo_skipEqReg : decodesTo 0xF000 0x5000 (fun w => .skipEqReg (xField w) (yField w)) :=
  decodesTo_F000 fun _ hg => ⟨hg, rfl, rfl⟩

theorem decodesTo_loadImm : decodesTo 0xF000 0x6000 (fun w => .loadImm (xField w) (kkField w)) :=
  decodesTo_F000 fun _ hg => ⟨hg, rfl, rfl⟩

theorem decodesTo_addImm : decodesTo 0xF000 0x7000 (fun w => .addImm (xField w) (kkField w)) :=
  decodesTo_F000 fun _ hg => ⟨hg, rfl, rfl⟩

theorem decodesTo_loadReg : decodesTo 0xF00F 0x8000 (fun w => .loadReg (xField w) (yField w)) :=
  decodesTo_F00F fun _ hg hn => ⟨hg, hn, rfl, rfl⟩

theorem decodesTo_orReg : decodesTo 0xF00F 0x8001 (fun w => .orReg (xField w) (yField w)) :=
  decodesTo_F00F fun _ hg hn => ⟨hg, hn, rfl, rfl⟩

theorem decodesTo_andReg : decodesTo 0xF00F 0x8002 (fun w => .andReg (xField w) (yField w)) :=
  decodesTo_F00F fun _ hg hn => ⟨hg, hn, rfl, rfl⟩

theorem decodesTo_xorReg : decodesTo 0xF00F 0x8003 (fun w => .xorReg (xField w) (yField w)) :=
  decodesTo_F00F fun _ hg hn => ⟨hg, hn, rfl, rfl⟩

theorem decodesTo_addReg : decodesTo 0xF00F 0x8004 (fun w => .addReg (xField w) (yField w)) :=
  decodesTo_F00F fun _ hg hn => ⟨hg, hn, rfl, rfl⟩

theorem decodesTo_sub : decodesTo 0xF00F 0x8005 (fun w => .sub (xField w) (yField w)) :=
  decodesTo_F00F fun _ hg hn => ⟨hg, hn, rfl, rfl⟩

theorem decodesTo_shr : decodesTo 0xF00F 0x8006 (fun w => .shr (xField w)) :=
  decodesTo_F00F fun _ hg hn => ⟨hg, hn, rfl⟩

theorem decodesTo_subn : decodesTo 0xF00F 0x8007 (fun w => .subn (xField w) (yField w)) :=
  decodesTo_F00F fun _ hg hn => ⟨hg, hn, rfl, rfl⟩

theorem decodesTo_shl : decodesTo 0xF00F 0x800E (fun w => .shl (xField w)) :=
  decodesTo_F00F fun _ hg hn => ⟨hg, hn, rfl⟩

theorem decodesTo_skipNeReg : decodesTo 0xF000 0x9000 (fun w => .skipNeReg (xField w) (yField w)) :=
  decodesTo_F000 fun _ hg => ⟨hg, rfl, rfl⟩

theorem decodesTo_loadIndex : decodesTo 0xF000 0xA000 (fun w => .loadIndex (nnnField w)) :=
  decodesTo_F000 fun _ hg => ⟨hg, rfl⟩

theorem decodesTo_jumpOffset : decodesTo 0xF000 0xB000 (fun w => .jumpOffset (nnnField w)) :=
  decodesTo_F000 fun _ hg => ⟨hg, rfl⟩

theorem decodesTo_random : decodesTo 0xF000 0xC000 (fun w => .random (xField w) (kkField w)) :=
  decodesTo_F000 fun _ hg => ⟨hg, rfl, rfl⟩

theorem decodesTo_draw : decodesTo 0xF000 0xD000 (fun w => .draw (xField w) (yField w) (lowNibble w)) :=
  decodesTo_F000 fun _ hg => ⟨hg, rfl, rfl, rfl⟩

theorem decodesTo_skipKeyPressed : decodesTo 0xF0FF 0xE09E (fun w => .skipKeyPressed (xField w)) :=
  decodesTo_F0FF fun _ hg hb => ⟨hg, hb, rfl⟩

theorem decodesTo_skipKeyNotPressed : decodesTo 0xF0FF 0xE0A1 (fun w => .skipKeyNotPressed (xField w)) :=
  decodesTo_F0FF fun _ hg hb => ⟨hg, hb, rfl⟩

theorem decodesTo_loadDelay : decodesTo 0xF0FF 0xF007 (fun w => .loadDelay (xField w)) :=
  decodesTo_F0FF fun _ hg hb => ⟨hg, hb, rfl⟩

theorem decodesTo_waitKey : decodesTo 0xF0FF 0xF00A (fun w => .waitKey (xField w)) :=
  decodesTo_F0FF fun _ hg hb => ⟨hg, hb, rfl⟩

theorem decodesTo_setDelay : decodesTo 0xF0FF 0xF015 (fun w => .setDelay (xField w)) :=
  decodesTo_F0FF fun _ hg hb => ⟨hg, hb, rfl⟩

theorem decodesTo_setSound : decodesTo 0xF0FF 0xF018 (fun w => .setSound (xField w)) :=
  decodesTo_F0FF fun _ hg hb => ⟨hg, hb, rfl⟩

theorem decodesTo_addIndex : decodesTo 0xF0FF 0xF01E (fun w => .addIndex (xField w)) :=
  decodesTo_F0FF fun _ hg hb => ⟨hg, hb, rfl⟩

theorem decodesTo_loadGlyph : decodesTo 0xF0FF 0xF029 (fun w => .loadGlyph (xField w)) :=
  decodesTo_F0FF fun _ hg hb => ⟨hg, hb, rfl⟩

theorem decodesTo_storeBcd : decodesTo 0xF0FF 0xF033 (fun w => .storeBcd (xField w)) :=
  decodesTo_F0FF fun _ hg hb => ⟨hg, hb, rfl⟩

theorem decodesTo_storeRegs : decodesTo 0xF0FF 0xF055 (fun w => .storeRegs (xField w)) :=
  decodesTo_F0FF fun _ hg hb => ⟨hg, hb, rfl⟩

theorem decodesTo_loadRegs : decodesTo 0xF0FF 0xF065 (fun w => .loadRegs (xField w)) :=
  decodesTo_F0FF fun _ hg hb => ⟨hg, hb, rfl⟩

/-- Every row's words decode to one reader of operand fields that bears the row's name. -/
theorem exists_decodesTo_of_row : ∀ row ∈ opcodeRows,
    ∃ f : Word → Instr, decodesTo row.mask row.pattern f ∧ ∀ w, (f w).mnemonic = row.mnemonic := by
  simp only [opcodeRows, opcodeRowsLow, opcodeRows8, opcodeRowsHigh, opcodeRowsF, List.cons_append, List.nil_append,
    List.forall_mem_cons]
  exact ⟨⟨_, decodesTo_clearScreen, fun _ => rfl⟩,
    ⟨_, decodesTo_ret, fun _ => rfl⟩,
    ⟨_, decodesTo_jump, fun _ => rfl⟩,
    ⟨_, decodesTo_call, fun _ => rfl⟩,
    ⟨_, decodesTo_skipEqImm, fun _ => rfl⟩,
    ⟨_, decodesTo_skipNeImm, fun _ => rfl⟩,
    ⟨_, decodesTo_skipEqReg, fun _ => rfl⟩,
    ⟨_, decodesTo_loadImm, fun _ => rfl⟩,
    ⟨_, decodesTo_addImm, fun _ => rfl⟩,
    ⟨_, decodesTo_loadReg, fun _ => rfl⟩,
    ⟨_, decodesTo_orReg, fun _ => rfl⟩,
    ⟨_, decodesTo_andReg, fun _ => rfl⟩,
    ⟨_, decodesTo_xorReg, fun _ => rfl⟩,
    ⟨_, decodesTo_addReg, fun _ => rfl⟩,
    ⟨_, decodesTo_sub, fun _ => rfl⟩,
    ⟨_, decodesTo_shr, fun _ => rfl⟩,
    ⟨_, decodesTo_subn, fun _ => rfl⟩,
    ⟨_, decodesTo_shl, fun _ => rfl⟩,
    ⟨_, decodesTo_skipNeReg, fun _ => rfl⟩,
    ⟨_, decodesTo_loadIndex, fun _ => rfl⟩,
    ⟨_, decodesTo_jumpOffset, fun _ => rfl⟩,
    ⟨_, decodesTo_random, fun _ => rfl⟩,
    ⟨_, decodesTo_draw, fun _ => rfl⟩,
    ⟨_, decodesTo_skipKeyPressed, fun _ => rfl⟩,
    ⟨_, decodesTo_skipKeyNotPressed, fun _ => rfl⟩,
    ⟨_, decodesTo_loadDelay, fun _ => rfl⟩,
    ⟨_, decodesTo_waitKey, fun _ => rfl⟩,
    ⟨_, decodesTo_setDelay, fun _ => rfl⟩,
    ⟨_, decodesTo_setSound, fun _ => rfl⟩,
    ⟨_, decodesTo_addIndex, fun _ => rfl⟩,
    ⟨_, decodesTo_loadGlyph, fun _ => rfl⟩,
    ⟨_, decodesTo_storeBcd, fun _ => rfl⟩,
    ⟨_, decodesTo_storeRegs, fun _ => rfl⟩,
    ⟨_, decodesTo_loadRegs, fun _ => rfl⟩,
    List.forall_mem_nil _⟩

/-! ### Every word against the whole map -/

/-- The decoder bounds draw's row count. -/
theorem wf_of_decodes {w : Word} {i : Instr} (h : Decodes w i) : i.wf = true := by
  cases i with
  | draw x y n => obtain ⟨-, -, -, rfl⟩ := h; exact decide_eq_true (Nat.le_of_lt_succ (lowNibble_lt w))
  | _ => rfl

/-- An instruction uses every bit that selects its row. -/
theorem usedBits_and_mask {row : OpRow} {i : Instr} (hrow : row ∈ opcodeRows) (hname : row.mnemonic = i.mnemonic) :
    usedBits i &&& row.mask = row.mask := by
  cases i with
  | clearScreen | ret | skipEqReg | skipNeReg | shr | shl =>
    revert row
    simp only [usedBits, Instr.mnemonic]
    decide
  | _ => exact BitVec.allOnes_and

/-- A word that stands for an instruction selects the row of the instruction's name: the instruction's own word does, and the two
agree on the bits the instruction uses. -/
theorem exists_row_of_decodes {w : Word} {i : Instr} (h : Decodes w i) :
    ∃ row ∈ opcodeRows, row.mnemonic = i.mnemonic ∧ w &&& row.mask = row.pattern := by
  obtain ⟨row, hrow, hname, hsel⟩ := Laws.EncodesInItsRow.all i (wf_of_decodes h)
  refine ⟨row, hrow, hname, ?_⟩
  calc w &&& row.mask = (w &&& usedBits i) &&& row.mask := by
        rw [BitVec.and_assoc, usedBits_and_mask hrow hname]
    _ = row.pattern := by rw [← encode_of_decodes h]; exact beq_iff_eq.1 hsel

theorem opcodeRows_mnemonics_nodup : (opcodeRows.map OpRow.mnemonic).Nodup := by decide

theorem selects_iff_decodes {w : Word} {row : OpRow} (hrow : row ∈ opcodeRows) :
    w &&& row.mask = row.pattern ↔ ∃ i, decode .lowByte .lowByte w = .ok i ∧ i.mnemonic = row.mnemonic := by
  constructor
  · intro hw
    obtain ⟨f, hf, hname⟩ := exists_decodesTo_of_row row hrow
    exact ⟨f w, hf _ _ w hw, hname w⟩
  · rintro ⟨i, hi, hname⟩
    obtain ⟨row', hrow', hname', hw⟩ := exists_row_of_decodes (decodes_of_decode hi)
    obtain rfl : row' = row :=
      List.inj_on_of_nodup_map opcodeRows_mnemonics_nodup hrow' hrow (hname'.trans hname)
    exact hw

/-- Settles O3: two rows that a word selects bear the name of the one instruction it decodes to, and no two rows share a name. -/
theorem opcodeMapDecidesEveryWord : Obligations.OpcodeMapDecidesEveryWord := by
  intro w
  refine ⟨fun row hrow => selects_iff_decodes hrow, ?_⟩
  refine (List.pairwise_map.1 opcodeRows_mnemonics_nodup).imp_of_mem ?_
  rintro a b ha hb hne ⟨hwa, hwb⟩
  obtain ⟨i, hi, hia⟩ := (selects_iff_decodes ha).1 hwa
  obtain ⟨j, hj, hjb⟩ := (selects_iff_decodes hb).1 hwb
  obtain rfl : i = j := Except.ok.inj (hi.symm.trans hj)
  exact hne (hia.symm.trans hjb)

end Sys2Proof.Machine
end

section
/-! PROOFS. Which words are illegal, and which of them the key parameters make legal (30_encoding.md R75, R77, R79). -/

namespace Sys2Proof

variable {w : Word} {key0 keyE : SubKey}

/-! ### The two groups with a key parameter: one choice between two handlers -/

section

variable {α : Type}

/-- The choice that groups 0x0 and 0xE make (30_encoding.md R75, R77): the low byte `b` of a handler selects it, and under
`lowNibble` the low nibble `n` of a handler's sub-key does too. -/
def pickBySubKey (key : SubKey) (b n b₁ n₁ b₂ n₂ : Nat) (r₁ r₂ unknown : α) : α :=
  if b = b₁ then r₁
  else if b = b₂ then r₂
  else if key = .lowNibble ∧ n = n₁ then r₁
  else if key = .lowNibble ∧ n = n₂ then r₂
  else unknown

theorem decodeGroup0_eq_pick : decodeGroup0 key0 w =
    pickBySubKey key0 (lowByte w) (lowNibble w) 0xE0 0x0 0xEE 0xE (.ok .clearScreen) (.ok .ret)
      (.error (.unknownInstruction w)) := rfl

theorem decodeGroupE_eq_pick : decodeGroupE keyE w =
    pickBySubKey keyE (lowByte w) (lowNibble w) 0x9E 0xE 0xA1 0x1 (.ok (.skipKeyPressed (xField w)))
      (.ok (.skipKeyNotPressed (xField w))) (.error (.unknownInstruction w)) := rfl

/-- With the full low byte as the sub-key, only the two handlers' own low bytes select. -/
theorem pickBySubKey_lowByte_eq_unknown {b n b₁ n₁ b₂ n₂ : Nat} {r₁ r₂ unknown : α} (h₁ : r₁ ≠ unknown)
    (h₂ : r₂ ≠ unknown) : pickBySubKey .lowByte b n b₁ n₁ b₂ n₂ r₁ r₂ unknown = unknown ↔ b ∉ [b₁, b₂] := by
  simp only [pickBySubKey, reduceCtorEq, false_and, if_false]
  split_ifs with hb₁ hb₂
  · simp [hb₁, h₁]
  · simp [hb₂, h₂]
  · simp [hb₁, hb₂]

/-- The five kinds of words, when the sub-keys differ in their low nibbles. -/
theorem pickBySubKey_cases (key : SubKey) {b n b₁ n₁ b₂ n₂ : Nat} (r₁ r₂ unknown : α) (hn : n = b % 16)
    (hn₁ : n₁ = b₁ % 16) (hn₂ : n₂ = b₂ % 16) (hne : n₁ ≠ n₂) :
    (b = b₁ → pickBySubKey key b n b₁ n₁ b₂ n₂ r₁ r₂ unknown = r₁) ∧
    (b = b₂ → pickBySubKey key b n b₁ n₁ b₂ n₂ r₁ r₂ unknown = r₂) ∧
    (n ≠ n₁ → n ≠ n₂ → pickBySubKey key b n b₁ n₁ b₂ n₂ r₁ r₂ unknown = unknown) ∧
    (b ≠ b₁ → n = n₁ → pickBySubKey key b n b₁ n₁ b₂ n₂ r₁ r₂ unknown =
      match key with
      | .lowByte => unknown
      | .lowNibble => r₁) ∧
    (b ≠ b₂ → n = n₂ → pickBySubKey key b n b₁ n₁ b₂ n₂ r₁ r₂ unknown =
      match key with
      | .lowByte => unknown
      | .lowNibble => r₂) := by
  unfold pickBySubKey
  refine ⟨fun hb => if_pos hb, fun hb => ?_, fun h₁ h₂ => ?_, fun hb h₁ => ?_, fun hb h₂ => ?_⟩
  · rw [if_neg (by omega), if_pos hb]
  · rw [if_neg (by omega), if_neg (by omega), if_neg (fun h => h₁ h.2), if_neg (fun h => h₂ h.2)]
  · rw [if_neg hb, if_neg (by omega)]
    cases key <;> simp [h₁]
  · rw [if_neg (by omega), if_neg hb]
    cases key <;> simp [h₂, hne.symm]

end

/-- Settles O5: groups 0x0 and 0xE choose alike between two handlers whose sub-keys differ in the low nibble. -/
theorem keyParametersDecideTheRemainingWords : Obligations.KeyParametersDecideTheRemainingWords := by
  intro key0 keyE w
  refine ⟨fun hg => ?_, fun hg => ?_⟩
  · rw [decode_group0 hg, decodeGroup0_eq_pick]
    exact pickBySubKey_cases key0 _ _ _ (lowByte_mod_16 w).symm rfl rfl (by decide)
  · rw [decode_groupE hg, decodeGroupE_eq_pick]
    exact pickBySubKey_cases keyE _ _ _ (lowByte_mod_16 w).symm rfl rfl (by decide)

/-! ### Illegal words, group by group -/

theorem decodeGroup0_eq_error :
    decodeGroup0 .lowByte w = .error (.unknownInstruction w) ↔ lowByte w ∉ [0xE0, 0xEE] :=
  pickBySubKey_lowByte_eq_unknown nofun nofun

theorem decodeGroup8_eq_error :
    decodeGroup8 w = .error (.unknownInstruction w) ↔ lowNibble w ∈ [0x8, 0x9, 0xA, 0xB, 0xC, 0xD, 0xF] := by
  have hlt := lowNibble_lt w
  interval_cases hn : lowNibble w <;> simp [decodeGroup8, hn]

theorem decodeGroupE_eq_error :
    decodeGroupE .lowByte w = .error (.unknownInstruction w) ↔ lowByte w ∉ [0x9E, 0xA1] :=
  pickBySubKey_lowByte_eq_unknown nofun nofun

theorem decodeGroupF_eq_error :
    decodeGroupF w = .error (.unknownInstruction w) ↔
      lowByte w ∉ [0x07, 0x0A, 0x15, 0x18, 0x1E, 0x29, 0x33, 0x55, 0x65] := by
  unfold decodeGroupF
  split <;> simp_all

/-- 30_encoding.md R74: the twelve groups with one handler each reject no word. -/
theorem exists_decode_of_one_handler (h : groupOf w ∉ [0x0, 0x8, 0xE, 0xF]) : ∃ i, decode key0 keyE w = .ok i := by
  have hlt := groupOf_lt w
  interval_cases hg : groupOf w <;> simp [decode, hg] at h ⊢

/-- Settles O4: the four divided groups reject exactly the sub-keys they do not list, and the other groups reject nothing. -/
theorem illegalWordsAreExactlyTheUnlistedOnes : Obligations.IllegalWordsAreExactlyTheUnlistedOnes := by
  intro w
  show decode .lowByte .lowByte w = .error (.unknownInstruction w) ↔
    (groupOf w = 0x0 ∧ lowByte w ∉ [0xE0, 0xEE]) ∨
    (groupOf w = 0x8 ∧ lowNibble w ∈ [0x8, 0x9, 0xA, 0xB, 0xC, 0xD, 0xF]) ∨
    (groupOf w = 0xE ∧ lowByte w ∉ [0x9E, 0xA1]) ∨
    (groupOf w = 0xF ∧ lowByte w ∉ [0x07, 0x0A, 0x15, 0x18, 0x1E, 0x29, 0x33, 0x55, 0x65])
  by_cases hg : groupOf w ∈ [0x0, 0x8, 0xE, 0xF]
  · simp only [List.mem_cons, List.not_mem_nil, or_false] at hg
    rcases hg with hg | hg | hg | hg
    · rw [decode_group0 hg, decodeGroup0_eq_error, hg]; simp
    · rw [decode_group8 hg, decodeGroup8_eq_error, hg]; simp
    · rw [decode_groupE hg, decodeGroupE_eq_error, hg]; simp
    · rw [decode_groupF hg, decodeGroupF_eq_error, hg]; simp
  · obtain ⟨i, hi⟩ := exists_decode_of_one_handler (key0 := .lowByte) (keyE := .lowByte) hg
    simp only [List.mem_cons, List.not_mem_nil, or_false, not_or] at hg
    simp [hi, hg]

/-- Settles O7, by running the decoder on the twelve words. -/
theorem writtenOutWordsDecode : Obligations.WrittenOutWordsDecode := by
  unfold Obligations.WrittenOutWordsDecode
  decide

end Sys2Proof
end

section
/-! PROOFS. A running core never stops without a next state (30_encoding.md R82 to R84; 60_exceptions.md R221, R228, R230). -/

namespace Sys2Proof.Machine

/-- No instruction stops the model: its outcomes cover every state. -/
theorem exists_exec_next (i : Instr) (s : State) : ∃ t, exec i s = .next t := by
  suffices h : ∃ t, Outcomes i s t from h.imp fun _ => exec_of_outcomes
  cases i with
  | ret =>
    by_cases hsp : s.sp = 0
    · exact ⟨_, .inl ⟨hsp, rfl⟩⟩
    · exact ⟨_, .inr ⟨hsp, rfl⟩⟩
  | call nnn =>
    by_cases hsp : s.sp = 16
    · exact ⟨_, .inl ⟨hsp, rfl⟩⟩
    · exact ⟨_, .inr ⟨hsp, rfl⟩⟩
  | sub | shr | subn | shl => exact ⟨_, _, rfl, rfl⟩
  | draw x y n =>
    cases hm : readCheck (s.effAddrs n) with
    | some a => exact ⟨_, .inl ⟨a, hm, rfl⟩⟩
    | none =>
      cases he : edgeCheck s.cfg.drawEdge (originCol (s.reg x)) (originRow (s.reg y)) (s.setBits n) with
      | some p => exact ⟨_, .inr ⟨hm, .inl ⟨p.1, p.2, he, rfl⟩⟩⟩
      | none => exact ⟨_, .inr ⟨hm, .inr ⟨he, rfl⟩⟩⟩
  | skipKeyPressed x | skipKeyNotPressed x =>
    cases hk : keyOf (s.reg x) with
    | none => exact ⟨_, .inl ⟨hk, rfl⟩⟩
    | some k => exact ⟨_, .inr ⟨k, hk, rfl⟩⟩
  | waitKey x =>
    cases hk : s.lowestKey with
    | none => exact ⟨_, .inr ⟨hk, rfl⟩⟩
    | some k => exact ⟨_, .inl ⟨k, hk, rfl⟩⟩
  | storeBcd x =>
    cases hc : writeCheck s.cfg.protectLow (s.effAddrs 3) with
    | some f => exact ⟨_, .inl ⟨f.1, f.2, hc, rfl⟩⟩
    | none => exact ⟨_, .inr ⟨hc, rfl⟩⟩
  | storeRegs x =>
    cases hc : writeCheck s.cfg.protectLow (s.effAddrs (x.val + 1)) with
    | some f => exact ⟨_, .inl ⟨f.1, f.2, hc, rfl⟩⟩
    | none => exact ⟨_, .inr ⟨hc, rfl⟩⟩
  | loadRegs x =>
    cases hc : readCheck (s.effAddrs (x.val + 1)) with
    | some a => exact ⟨_, .inl ⟨a, hc, rfl⟩⟩
    | none => exact ⟨_, .inr ⟨hc, rfl⟩⟩
  | _ => exact ⟨_, rfl⟩

variable {s t : State} {i : Instr}

theorem step_of_fetchFails (hrun : s.halted = none) (hpc : 0xFFE < s.pc.toNat) :
    step s = .next s.beginStep.raiseFetch :=
  (step_running hrun).trans (if_pos (decide_eq_true hpc))

theorem step_of_fetches (hrun : s.halted = none) (hpc : s.pc.toNat ≤ 0xFFE) : step s = s.fetched.decodeAndRun := by
  rw [step_running hrun, State.fetchFails_eq_false.2 hpc]; rfl

theorem step_of_exec (hrun : s.halted = none) (hpc : s.pc.toNat ≤ 0xFFE) (hi : s.nextInstr = .ok i)
    (h : exec i s.fetched = .next t) : step s = .next t.endStep := by
  rw [step_of_fetches hrun hpc, State.decodeAndRun_ok (s.fetched_decoded.trans hi), h]; rfl

theorem State.endStep_of_running (h : s.halted = none) : s.endStep = s.tick := by
  simp only [State.endStep, h]

theorem State.endStep_of_halted (h : s.halted ≠ none) : s.endStep = s := by
  obtain ⟨r, hr⟩ := Option.ne_none_iff_exists'.1 h
  simp only [State.endStep, hr]

/-- The tick spelled out with the spec's clamped decrement (60_exceptions.md R228). -/
theorem State.tick_eq (s : State) : s.tick =
    { s with
      delay := clampedDown s.delay, sound := clampedDown s.sound, soundStop := decide (s.sound.toNat = 1) } := by
  rw [State.tick, tickDown_eq, tickDown_eq]
  congr 1
  exact decide_eq_decide.2 BitVec.toNat_eq

/-- Settles O10: an instruction's checks leave no case out, and a fetch or a decode that fails is a latched record. -/
theorem runningCoreAlwaysHasANextState : Obligations.RunningCoreAlwaysHasANextState := by
  refine ⟨exists_exec_next, fun s hrun => ?_⟩
  rcases Nat.lt_or_ge 0xFFE s.pc.toNat with hpc | hpc
  · exact ⟨_, step_of_fetchFails hrun hpc⟩
  · cases hi : s.nextInstr with
    | error e => exact ⟨_, (step_of_fetches hrun hpc).trans (State.decodeAndRun_error (s.fetched_decoded.trans hi))⟩
    | ok i =>
      obtain ⟨t, ht⟩ := exists_exec_next i s.fetched
      exact ⟨_, step_of_exec hrun hpc hi ht⟩

/-- Settles O8: the start of the step touches neither `pc` nor memory, so CI is the word at the old `pc`. -/
theorem fetchReadsBigEndianAndAdvances : Obligations.FetchReadsBigEndianAndAdvances :=
  fun s => ⟨s.fetch16_toNat s.pc.toNat, rfl⟩

/-- Settles O9: the end of the step is the tick exactly when the handler left the core running. -/
theorem stepRunsTheDecodedInstruction : Obligations.StepRunsTheDecodedInstruction := by
  intro s t i hrun hpc hi h
  have hstep : step s = .next t.endStep := step_of_exec hrun hpc hi h
  constructor
  · intro ht
    rw [hstep, State.endStep_of_running ht, State.tick_eq]
  · intro ht
    rw [hstep, State.endStep_of_halted ht]

end Sys2Proof.Machine
end

section
/-! PROOFS. Control transfer, instruction by instruction: encodings, faults and whole next states (40_control_flow.md R101 to
R108). The outcomes are those of `exec_of_outcomes`; here the stack operations and the skips are written out. -/

namespace Sys2Proof.Machine

/-! ### The call stack at a known depth -/

section

variable {s : State} {k : Fin 16}

theorem State.popPc_of_sp_eq_succ (hsp : s.sp = k.succ) :
    s.popPc = { s with sp := k.castSucc, pc := s.stack[k] } := by
  have hval : s.sp.val - 1 = k.val := by rw [hsp, Fin.val_succ, Nat.add_sub_cancel]
  have hdepth : Fin.ofNat 17 k.val = k.castSucc := Fin.ext (Nat.mod_eq_of_lt (by omega))
  rw [State.popPc, hval, hdepth, State.slot_val]

theorem State.push_of_sp_eq_castSucc (hsp : s.sp = k.castSucc) (v : Word) :
    s.push v = { s with stack := s.stack.set k.val v, sp := k.succ } := by
  have hslot : s.sp.val % 16 = k.val := by rw [hsp, Fin.val_castSucc, Nat.mod_eq_of_lt k.isLt]
  have hdepth : Fin.ofNat 17 (s.sp.val + 1) = k.succ := by
    rw [hsp, Fin.val_castSucc]; exact Fin.ext (Nat.mod_eq_of_lt (by omega))
  simp only [State.push, hslot, hdepth]

end

/-! ### return and call -/

/-- Settles O28: SP = k + 1 is not 0, and the pop at that depth takes slot k. -/
theorem returnPopsTheTopEntry : Obligations.ReturnPopsTheTopEntry := by
  refine ⟨decodesTo_ret, fun s => ⟨fun h0 => exec_of_outcomes (.inl ⟨h0, rfl⟩), fun k hk => ?_⟩⟩
  have hne : s.sp ≠ 0 := hk ▸ Fin.succ_ne_zero k
  exact exec_of_outcomes (.inr ⟨hne, (State.popPc_of_sp_eq_succ hk).symm⟩)

/-- Settles O29: SP = k below 16 is not 16, and the push at that depth writes slot k. -/
theorem callPushesTheReturnAddress : Obligations.CallPushesTheReturnAddress := by
  refine ⟨decodesTo_call, fun nnn s => ⟨fun h16 => exec_of_outcomes (.inl ⟨h16, rfl⟩), fun k hk => ?_⟩⟩
  have hne : s.sp ≠ 16 := hk ▸ Fin.castSucc_ne_last k
  refine exec_of_outcomes (.inr ⟨hne, ?_⟩)
  rw [State.push_of_sp_eq_castSucc hk]
  rfl

/-! ### jump and jump-offset -/

theorem fetch_limit_lt_address_iff (nnn : BitVec 12) : 0xFFE < nnn.toNat ↔ nnn = 0xFFF := by bv_omega

/-- Settles O30: the target is the 12-bit address itself, and 0xFFF is the only one above 0xFFE. -/
theorem jumpGoesToItsAddress : Obligations.JumpGoesToItsAddress := by
  refine ⟨decodesTo_jump, fun nnn s => ⟨_, exec_of_outcomes (i := .jump nnn) rfl, rfl, ?_⟩⟩
  rw [State.setPc_pc, toNat_setWidth_address]
  exact ⟨rfl, fetch_limit_lt_address_iff nnn⟩

/-- Settles O31: a byte and a 12-bit address sum to less than 2 ^ 16, so the sum is `pc` as it stands. -/
theorem jumpOffsetAddsRegisterZero : Obligations.JumpOffsetAddsRegisterZero :=
  ⟨decodesTo_jumpOffset, fun nnn s =>
    ⟨_, exec_of_outcomes (i := .jumpOffset nnn) rfl, rfl, toNat_ofNat_add_address (s.reg 0) nnn⟩⟩

/-! ### The four skips -/

/-- A choice of the next `pc` is a choice between the state past one word and the state as it stands. -/
theorem State.setPc_ite (s : State) (c : Prop) [Decidable c] (t : Word) :
    s.setPc (if c then t else s.pc) = if c then { s with pc := t } else s := by
  split <;> rfl

/-- Settles O32: each skip chooses the next `pc` by its own condition (`Outcomes`). -/
theorem skipsPassOverOneWord : Obligations.SkipsPassOverOneWord := by
  refine ⟨decodesTo_skipEqImm, decodesTo_skipNeImm, decodesTo_skipEqReg, decodesTo_skipNeReg, fun x y kk s => ?_⟩
  simp only [← State.setPc_ite]
  exact ⟨exec_of_outcomes (i := .skipEqImm x kk) rfl, exec_of_outcomes (i := .skipNeImm x kk) rfl,
    exec_of_outcomes (i := .skipEqReg x y) rfl, exec_of_outcomes (i := .skipNeReg x y) rfl⟩

end Sys2Proof.Machine
end

section
/-! PROOFS. The register loads and the 8-bit ALU, instruction by instruction: encodings, results, flags and frames
(41_alu.md R120 to R133). The outcomes are those of `exec_of_outcomes`; here the flags and the results are read as numbers, and a
register is read after the flag write and the result write that follows it. -/

namespace Sys2Proof.Machine

/-! ### Reading a register after the writes of one instruction -/

section

variable {s : State} {r x : Reg} {v f : Byte}

theorem State.setReg_reg_self : (s.setReg x v).reg x = v := by
  rw [State.setReg_reg, if_pos rfl]

theorem State.setReg_reg_of_ne (h : r ≠ x) : (s.setReg x v).reg r = s.reg r :=
  by_contra fun hr => h (State.eq_of_setReg_reg_ne hr)

theorem State.setFlag_reg_of_ne (h : r ≠ 0xF) : (s.setFlag f).reg r = s.reg r :=
  State.setReg_reg_of_ne h

theorem State.setFlag_setReg_reg_flag (hx : x ≠ 0xF) : ((s.setFlag f).setReg x v).reg 0xF = f :=
  (State.setReg_reg_of_ne hx.symm).trans State.setReg_reg_self

theorem State.setFlag_setReg_reg_of_ne (hx : r ≠ x) (hf : r ≠ 0xF) : ((s.setFlag f).setReg x v).reg r = s.reg r :=
  (State.setReg_reg_of_ne hx).trans (State.setFlag_reg_of_ne hf)

end

/-! ### Flags and results as numbers -/

theorem greaterFlag_toNat (a b : Byte) : (greaterFlag a b).toNat = if b.toNat < a.toNat then 1 else 0 := by
  by_cases h : b.toNat < a.toNat <;> simp [greaterFlag, flagByte, h]

theorem carryFlag_eq (a b : Byte) : carryFlag a b = if 255 < a.toNat + b.toNat then 1 else 0 := by
  simp only [carryFlag, flagByte, decide_eq_true_eq]

theorem lsbFlag_toNat (v : Byte) : (lsbFlag v).toNat = v.toNat % 2 := by
  rw [lsbFlag, BitVec.toNat_and]
  exact Nat.and_one_is_mod v.toNat

theorem msbFlag_toNat (v : Byte) : (msbFlag v).toNat = v.toNat / 128 := by
  have hbit : v.toNat / 128 < 2 := by omega
  calc (msbFlag v).toNat
    _ = (v.toNat &&& 128) >>> 7 := by rw [msbFlag, BitVec.toNat_ushiftRight, BitVec.toNat_and]; rfl
    _ = v.toNat >>> 7 &&& 1 := Nat.shiftRight_and_distrib
    _ = v.toNat / 128 := by
      rw [Nat.and_one_is_mod, Nat.shiftRight_eq_div_pow]
      exact Nat.mod_eq_of_lt hbit

theorem toNat_byte_sub (a b : Byte) : (a - b).toNat = (a.toNat + 256 - b.toNat) % 256 := by
  rw [BitVec.toNat_sub]; omega

theorem toNat_byte_shiftRight_one (v : Byte) : (v >>> 1).toNat = v.toNat / 2 := by
  rw [BitVec.toNat_ushiftRight, Nat.shiftRight_eq_div_pow, pow_one]

theorem toNat_byte_shiftLeft_one (v : Byte) : (v <<< 1).toNat = v.toNat * 2 % 256 := by
  rw [BitVec.toNat_shiftLeft, Nat.shiftLeft_eq, pow_one]

/-- A subtraction after the flag write: an operand register 0xF reads as the new flag (00_scope.md R13, D4). -/
theorem State.toNat_setFlag_reg_sub (s : State) (f : Byte) (m n : Reg) :
    ((s.setFlag f).reg m - (s.setFlag f).reg n).toNat =
      ((if 0xF = m then f else s.reg m).toNat + 256 - (if 0xF = n then f else s.reg n).toNat) % 256 := by
  rw [toNat_byte_sub, State.setFlag_reg, State.setFlag_reg]

/-! ### add-reg, sub and subn -/

/-- Settles O35: the operands are read before the flag is written, and the sum is written last. -/
theorem addRegSumsWithCarry : Obligations.AddRegSumsWithCarry := by
  refine ⟨decodesTo_addReg, fun x y s => ⟨_, exec_of_outcomes (i := .addReg x y) rfl, rfl, ?_, fun hx => ?_,
    fun _ => State.setFlag_setReg_reg_of_ne⟩⟩
  · rw [State.setReg_reg_self, BitVec.toNat_add]
  · rw [State.setFlag_setReg_reg_flag hx, carryFlag_eq]

/-- Settles O36: the flag's number is `f`, and each operand is the old register or, at 0xF, that flag. -/
theorem subWritesTheFlagFirst : Obligations.SubWritesTheFlagFirst := by
  refine ⟨decodesTo_sub, fun x y s f hf => ⟨_, exec_of_outcomes (i := .sub x y) ⟨_, rfl, rfl⟩, rfl, ?_⟩⟩
  obtain rfl : f = (greaterFlag (s.reg x) (s.reg y)).toNat := hf.trans (greaterFlag_toNat _ _).symm
  refine ⟨fun hx hy => ?_, fun hx hy => ?_, fun hx => ?_, fun hx hy => ?_, fun hx hy => ?_,
    fun _ => State.setFlag_setReg_reg_of_ne⟩
  · rw [State.setReg_reg_self, State.toNat_setFlag_reg_sub, if_neg hx.symm, if_neg hy.symm]
  · rw [State.setReg_reg_self, State.toNat_setFlag_reg_sub, if_neg hx.symm, if_pos hy.symm]
  · rw [State.setFlag_setReg_reg_flag hx]
  · subst hx
    rw [State.setReg_reg_self, State.toNat_setFlag_reg_sub, if_pos rfl, if_neg hy.symm]
  · subst hx hy
    rw [State.setReg_reg_self]
    exact BitVec.sub_self _

/-- Settles O37: as for sub, with the operands exchanged in the flag and in the subtraction. -/
theorem subnWritesTheFlagFirst : Obligations.SubnWritesTheFlagFirst := by
  refine ⟨decodesTo_subn, fun x y s f hf => ⟨_, exec_of_outcomes (i := .subn x y) ⟨_, rfl, rfl⟩, rfl, ?_⟩⟩
  obtain rfl : f = (greaterFlag (s.reg y) (s.reg x)).toNat := hf.trans (greaterFlag_toNat _ _).symm
  refine ⟨fun hx hy => ?_, fun hx hy => ?_, fun hx => ?_, fun hx hy => ?_, fun hx hy => ?_,
    fun _ => State.setFlag_setReg_reg_of_ne⟩
  · rw [State.setReg_reg_self, State.toNat_setFlag_reg_sub, if_neg hy.symm, if_neg hx.symm]
  · rw [State.setReg_reg_self, State.toNat_setFlag_reg_sub, if_pos hy.symm, if_neg hx.symm]
  · rw [State.setFlag_setReg_reg_flag hx]
  · subst hx
    rw [State.setReg_reg_self, State.toNat_setFlag_reg_sub, if_neg hy.symm, if_pos rfl]
  · subst hx hy
    rw [State.setReg_reg_self]
    exact BitVec.sub_self _

/-! ### shr and shl -/

/-- The bit that shr shifts out is lost when it is shifted in its turn. -/
theorem lsbFlag_shiftRight_one (v : Byte) : lsbFlag v >>> 1 = 0 := by
  apply BitVec.eq_of_toNat_eq
  rw [toNat_byte_shiftRight_one, lsbFlag_toNat]
  exact Nat.div_eq_of_lt (Nat.mod_lt _ (by decide))

/-- The bit that shl shifts out weighs 2 when it is shifted in its turn. -/
theorem toNat_msbFlag_shiftLeft_one (v : Byte) : (msbFlag v <<< 1).toNat = if 128 ≤ v.toNat then 2 else 0 := by
  rw [toNat_byte_shiftLeft_one, msbFlag_toNat]
  split <;> omega

/-- Settles O38: the flag is written before `reg[x]` is read for the shift, so at 0xF it is the flag that shifts. -/
theorem shiftsCaptureTheBitShiftedOut : Obligations.ShiftsCaptureTheBitShiftedOut := by
  refine ⟨decodesTo_shr, decodesTo_shl, fun x s =>
    ⟨⟨_, exec_of_outcomes (i := .shr x) ⟨_, rfl, rfl⟩, rfl, fun hx => ⟨?_, ?_⟩, fun hx => ?_,
      fun _ => State.setFlag_setReg_reg_of_ne⟩,
     ⟨_, exec_of_outcomes (i := .shl x) ⟨_, rfl, rfl⟩, rfl, fun hx => ⟨?_, ?_⟩, fun hx => ?_,
      fun _ => State.setFlag_setReg_reg_of_ne⟩⟩⟩
  · rw [State.setReg_reg_self, State.setFlag_reg_of_ne hx, toNat_byte_shiftRight_one]
  · rw [State.setFlag_setReg_reg_flag hx, lsbFlag_toNat]
  · subst hx
    rw [State.setReg_reg_self, State.setFlag_reg, if_pos rfl, lsbFlag_shiftRight_one]
  · rw [State.setReg_reg_self, State.setFlag_reg_of_ne hx, toNat_byte_shiftLeft_one]
  · rw [State.setFlag_setReg_reg_flag hx, msbFlag_toNat]
  · subst hx
    rw [State.setReg_reg_self, State.setFlag_reg, if_pos rfl, toNat_msbFlag_shiftLeft_one]

/-! ### The instructions that write `reg[x]` alone -/

/-- Settles O33: each writes its value to `reg[x]` and no flag. -/
theorem registerLoadsAndAddImm : Obligations.RegisterLoadsAndAddImm := by
  refine ⟨decodesTo_loadImm, decodesTo_addImm, decodesTo_loadReg, fun x y kk s =>
    ⟨⟨_, exec_of_outcomes (i := .loadImm x kk) rfl, rfl, ?_, fun _ => State.setReg_reg_of_ne⟩,
     ⟨_, exec_of_outcomes (i := .addImm x kk) rfl, rfl, ?_, fun _ => State.setReg_reg_of_ne⟩,
     ⟨_, exec_of_outcomes (i := .loadReg x y) rfl, rfl, ?_, fun _ => State.setReg_reg_of_ne⟩⟩⟩
  · rw [State.setReg_reg_self]
  · rw [State.setReg_reg_self, BitVec.toNat_add]
  · rw [State.setReg_reg_self]

/-- Settles O34: each writes its combination to `reg[x]` and no flag. -/
theorem logicCombinesBitByBit : Obligations.LogicCombinesBitByBit := by
  refine ⟨decodesTo_orReg, decodesTo_andReg, decodesTo_xorReg, fun x y s =>
    ⟨⟨_, exec_of_outcomes (i := .orReg x y) rfl, rfl, fun j => ?_, fun _ => State.setReg_reg_of_ne⟩,
     ⟨_, exec_of_outcomes (i := .andReg x y) rfl, rfl, fun j => ?_, fun _ => State.setReg_reg_of_ne⟩,
     ⟨_, exec_of_outcomes (i := .xorReg x y) rfl, rfl, fun j => ?_, fun _ => State.setReg_reg_of_ne⟩⟩⟩
  · rw [State.setReg_reg_self, BitVec.getLsbD_or]
  · rw [State.setReg_reg_self, BitVec.getLsbD_and]
  · rw [State.setReg_reg_self, BitVec.getLsbD_xor]

/-- Settles O39: nothing is used of the byte but its place in the AND; the count of draws moves before the write. -/
theorem randomMasksAFreshByte : Obligations.RandomMasksAFreshByte := by
  refine ⟨decodesTo_random, fun x kk s => ⟨_, exec_of_outcomes (i := .random x kk) rfl, rfl, fun j => ?_, fun hkk => ?_,
    fun _ => State.setReg_reg_of_ne (s := { s with draws := s.draws + 1 })⟩⟩
  · rw [State.setReg_reg_self, BitVec.getLsbD_and]
  · rw [State.setReg_reg_self, hkk]
    exact BitVec.and_zero

end Sys2Proof.Machine
end

section
/-! PROOFS. The index register and the memory transfers, instruction by instruction: encodings, results, frames and the first
failing address (42_index_memory.md R149 to R155). The outcomes are those of `exec_of_outcomes`; here the checks of a store are
read through `State.mayStore`, and a byte is read after the bytes of one store. -/

namespace Sys2Proof.Machine

/-! ### The check of a store (20_memory.md R52, R58) -/

section

variable {s : State} {a k n : Nat}

/-- `State.mayStore` is the model's check of one written address. -/
theorem State.mayStore_iff : s.mayStore a ↔ writeCheckOne s.cfg.protectLow a = none := by
  rw [writeCheckOne_eq_none, State.mayStore]
  refine and_congr_right' ?_
  cases s.cfg.protectLow <;> simp [protectedAddr]

/-- The bounds come before the protection. -/
theorem State.writeCheckOne_of_not_mayStore (h : ¬s.mayStore a) :
    writeCheckOne s.cfg.protectLow a = some (if 0xFFF < a then .memoryOutOfBounds else .reservedWrite) := by
  rw [State.mayStore_iff, writeCheckOne] at h
  rw [writeCheckOne]
  split_ifs at h ⊢ with hbound hprotected
  · rfl
  · rfl
  · exact absurd rfl h

theorem State.effAddrs_length : (s.effAddrs n).length = n := by simp [State.effAddrs]

theorem State.effAddrs_getElem (hk : k < (s.effAddrs n).length) : (s.effAddrs n)[k] = s.index.toNat + k := by
  simp [State.effAddrs, State.effAddr]

theorem State.writeCheck_pass (h : ∀ k, k < n → s.mayStore (s.index.toNat + k)) :
    writeCheck s.cfg.protectLow (s.effAddrs n) = none := by
  rw [writeCheck_eq_none]
  intro a ha
  obtain ⟨k, hk, rfl⟩ := State.mem_effAddrs.1 ha
  exact writeCheckOne_eq_none.1 (State.mayStore_iff.1 (h k hk))

theorem State.writeCheck_fail (hk : k < n) (hpass : ∀ j, j < k → s.mayStore (s.index.toNat + j))
    (hfail : ¬s.mayStore (s.index.toNat + k)) : writeCheck s.cfg.protectLow (s.effAddrs n) =
      some (if 0xFFF < s.index.toNat + k then .memoryOutOfBounds else .reservedWrite, s.index.toNat + k) := by
  have hlen : k < (s.effAddrs n).length := State.effAddrs_length.symm ▸ hk
  have haddr : (s.effAddrs n)[k] = s.index.toNat + k := State.effAddrs_getElem hlen
  rw [← haddr] at hfail ⊢
  refine writeCheck_first hlen (fun j hj => ?_) (State.writeCheckOne_of_not_mayStore hfail)
  rw [State.effAddrs_getElem]
  exact State.mayStore_iff.1 (hpass j hj)

/-- The last of the addresses that a completed store checked is in memory. -/
theorem storeRegs_last_le {x : Reg} {t : State} (h : exec (.storeRegs x) s = .next t) (ht : t.halted = none) :
    s.index.toNat + x.val ≤ 0xFFF := by
  rcases exec_next h with ⟨k, a, -, rfl⟩ | ⟨hc, -⟩
  · cases ht
  · exact (writeCheck_eq_none.1 hc _ (State.mem_effAddrs.2 ⟨x.val, Nat.lt_succ_self _, rfl⟩)).1

end

/-! ### Reading a byte after the bytes of one store -/

section

variable {s : State} {a b k : Nat} {vs : List Byte}

theorem State.readByte_writeBytes_stored (hk : k < vs.length) (hmem : a + k ≤ 0xFFF) :
    (s.writeBytes a vs).readByte (a + k) = vs[k] := by
  rw [State.readByte_writeBytes, if_pos (by omega), Nat.add_sub_cancel_left, List.getElem?_eq_getElem hk,
    Option.getD_some]

theorem State.readByte_writeBytes_outside (h : b < a ∨ a + vs.length ≤ b) :
    (s.writeBytes a vs).readByte b = s.readByte b := by
  rw [State.readByte_writeBytes, if_neg (by omega)]

end

/-! ### The two stores -/

theorem toNat_byte_of_lt {d : Nat} (h : d < 256) : (BitVec.ofNat 8 d).toNat = d :=
  (BitVec.toNat_ofNat d 8).trans (Nat.mod_eq_of_lt h)

/-- Settles O41: the three digits are the stored bytes 0, 1 and 2, and the check reports the first address that may not be
stored to. -/
theorem storeBcdWritesThreeDigits : Obligations.StoreBcdWritesThreeDigits := by
  refine ⟨decodesTo_storeBcd, fun x s => ⟨fun hstore => ?_, fun k hk hpass hfail => ?_⟩⟩
  · have hdigit (k : Nat) (hk : k < 3) : (s.writeBytes s.index.toNat (bcdDigits (s.reg x))).readByte (s.index.toNat + k)
        = (bcdDigits (s.reg x))[k] := State.readByte_writeBytes_stored hk (hstore k hk).1
    refine ⟨_, exec_of_outcomes (.inr ⟨State.writeCheck_pass hstore, rfl⟩), State.writeBytes_frame .., ?_, ?_, ?_,
      fun a ha => State.readByte_writeBytes_outside (vs := bcdDigits (s.reg x)) ha⟩
    · exact (congrArg BitVec.toNat (hdigit 0 (by decide))).trans (toNat_byte_of_lt (by omega))
    · exact (congrArg BitVec.toNat (hdigit 1 (by decide))).trans (toNat_byte_of_lt (by omega))
    · exact (congrArg BitVec.toNat (hdigit 2 (by decide))).trans (toNat_byte_of_lt (by omega))
  · exact exec_of_outcomes (.inl ⟨_, _, State.writeCheck_fail hk hpass hfail, rfl⟩)

/-- Settles O42: register `r` is the stored byte `r`, and the check reports the first address that may not be stored to. -/
theorem storeRegsWritesTheFirstRegisters : Obligations.StoreRegsWritesTheFirstRegisters := by
  refine ⟨decodesTo_storeRegs, fun x s => ⟨fun hstore => ?_, fun k hk hpass hfail => ?_⟩⟩
  · have hcheck := State.writeCheck_pass fun k hk => hstore k (Nat.le_of_lt_succ hk)
    refine ⟨_, exec_of_outcomes (.inr ⟨hcheck, rfl⟩), State.writeBytes_frame .., fun r hr => ?_, fun a ha => ?_⟩
    · obtain ⟨hlen, hreg⟩ := List.getElem?_eq_some_iff.1 (s.firstRegs_getElem? hr)
      rw [State.readByte_writeBytes_stored hlen (hstore r.val hr).1, hreg]
    · exact State.readByte_writeBytes_outside (by rwa [State.firstRegs_length])
  · exact exec_of_outcomes (.inl ⟨_, _, State.writeCheck_fail (Nat.lt_succ_of_le hk) hpass hfail, rfl⟩)

/-! ### load-regs, alone and after store-regs -/

/-- Settles O43: the check of reads looks at no parameter, and the first address above 0xFFF is I itself or 0x1000. -/
theorem loadRegsReadsTheFirstRegisters : Obligations.LoadRegsReadsTheFirstRegisters := by
  refine ⟨decodesTo_loadRegs, fun x s => ⟨fun hle => ?_, fun hgt => ?_⟩⟩
  · refine ⟨_, exec_of_outcomes (.inr ⟨State.readCheck_pass (.inr hle), rfl⟩), State.loadFirstRegs_frame ..,
      fun r hr => ?_, fun r hr => ?_⟩ <;> rw [State.loadFirstRegs_reg _ _ x.isLt]
    · rw [if_pos (Nat.lt_succ_of_le hr)]
    · rw [if_neg (Nat.not_lt.2 hr)]
  · exact exec_of_outcomes (.inl ⟨_, State.readCheck_fail (Nat.succ_pos _) hgt, rfl⟩)

/-- Settles O45: the last address that the store checked is in memory, so load-regs completes (O43), and the byte it reads for
register `r` is the one that the store left there (`storeRegs_readByte`). -/
theorem storeRegsThenLoadRegsRestores : Obligations.StoreRegsThenLoadRegsRestores := by
  intro x s t u _ h ht hmem hindex hcfg
  have hread (a : Nat) : u.readByte a = t.readByte a := by
    rw [State.readByte, State.readByte, hmem, hcfg, exec_cfg h]
  obtain ⟨-, hload⟩ := loadRegsReadsTheFirstRegisters
  obtain ⟨v, hv, hframe, hregs, habove⟩ := (hload x u).1 (hindex ▸ storeRegs_last_le h ht)
  refine ⟨v, hv, hframe, fun r hr => ?_, habove⟩
  rw [hregs r hr, hread, hindex, storeRegs_readByte h ht hr]

/-! ### The writers of I -/

/-- 42_index_memory.md R152: the glyph address of any byte needs no reduction. -/
theorem glyphAddr_toNat (v : Byte) : (glyphAddr v).toNat = 0x050 + 5 * v.toNat := by
  rw [glyphAddr, BitVec.toNat_ofNat]
  exact Nat.mod_eq_of_lt (show 0x050 + 5 * v.toNat < 2 ^ 16 by omega)

/-- Settles O40: each writes I alone, and only the sum of add-index can pass 2 ^ 16. -/
theorem indexWritersComputeTheirAddress : Obligations.IndexWritersComputeTheirAddress := by
  refine ⟨decodesTo_loadIndex, decodesTo_addIndex, decodesTo_loadGlyph, fun x nnn s =>
    ⟨⟨_, exec_of_outcomes (i := .loadIndex nnn) rfl, rfl, toNat_setWidth_address nnn⟩,
     ⟨_, exec_of_outcomes (i := .addIndex x) rfl, rfl, ?_⟩,
     ⟨_, exec_of_outcomes (i := .loadGlyph x) rfl, rfl, glyphAddr_toNat (s.reg x)⟩⟩⟩
  rw [State.setIndex_index, BitVec.toNat_add, BitVec.toNat_setWidth_of_le (by decide)]

end Sys2Proof.Machine
end

section
/-! PROOFS. The framebuffer instructions: encodings, where a set bit lands, what a draw flips, what it checks and what a second
draw undoes (43_display.md R170 to R174). The outcomes are those of `exec_of_outcomes`; a drawn pixel is spoken of through
`State.hits`. -/

namespace Sys2Proof.Machine

/-! ### clear-screen -/

/-- Settles O46: the new frame is the all-off one, and nothing else is written. -/
theorem clearScreenTurnsEveryPixelOff : Obligations.ClearScreenTurnsEveryPixelOff :=
  ⟨decodesTo_clearScreen, fun _ => ⟨_, exec_of_outcomes (i := .clearScreen) rfl, rfl, Frame.clear_pixel⟩⟩

/-! ### Where a set bit lands (43_display.md R173) -/

section

variable {mode : EdgeMode} {c r : Nat}

theorem offScreen_eq_true : offScreen c r = true ↔ 63 < c ∨ 31 < r := by simp [offScreen]

theorem offScreen_eq_false : offScreen c r = false ↔ c ≤ 63 ∧ r ≤ 31 := by simp [offScreen]

/-- On the screen every mode hits the pixel itself. -/
theorem target_of_onScreen (hc : c ≤ 63) (hr : r ≤ 31) : target mode c r = some (Fin.ofNat 32 r, Fin.ofNat 64 c) := by
  have hon : offScreen c r = false := offScreen_eq_false.2 ⟨hc, hr⟩
  cases mode <;> simp [target, hon]

/-- Off the screen only wrap hits a pixel. -/
theorem target_of_offScreen (hmode : mode ≠ .wrap) (h : 63 < c ∨ 31 < r) : target mode c r = none := by
  have hoff : offScreen c r = true := offScreen_eq_true.2 h
  cases mode with
  | wrap => exact absurd rfl hmode
  | fault | clip => exact if_pos hoff

end

/-- Settles O49: on the screen no reduction changes the column or the row. -/
theorem targetFollowsTheEdgeMode : Obligations.TargetFollowsTheEdgeMode := fun c r =>
  ⟨fun m hm =>
    ⟨fun hc hr => ⟨_, _, target_of_onScreen hc hr, Nat.mod_eq_of_lt (by omega), Nat.mod_eq_of_lt (by omega)⟩,
      target_of_offScreen hm⟩,
   _, _, rfl, rfl, rfl⟩

/-! ### The pixels and the flag after a draw -/

section

variable {s : State} {ox oy n : Nat} {row : Fin 32} {col : Fin 64}

theorem State.drawSprite_pixel_of_hits (hn : n ≤ 15) (h : s.hits ox oy n row col) :
    (s.drawSprite ox oy n).pixel row col = !s.pixel row col := by
  rw [Bool.eq_iff_iff, State.drawSprite_pixel s ox oy n (by omega), iff_true_left h, Bool.not_eq_true, Bool.not_eq_true']

theorem State.drawSprite_pixel_of_not_hits (hn : n ≤ 15) (h : ¬s.hits ox oy n row col) :
    (s.drawSprite ox oy n).pixel row col = s.pixel row col := by
  rw [Bool.eq_iff_iff, State.drawSprite_pixel s ox oy n (by omega), iff_false_left h, not_not]

theorem collisionFlag_eq_one {b : Bool} : collisionFlag b = 1 ↔ b = true := by cases b <;> decide

theorem collisionFlag_eq_zero {b : Bool} : collisionFlag b = 0 ↔ ¬b = true := by cases b <;> decide

/-- The collision flag is that of the hit pixels before the draw. -/
theorem State.exists_drawSprite_flag (hn : n ≤ 15) : ∃ b, (s.drawSprite ox oy n).reg 0xF = collisionFlag b ∧
    (b = true ↔ ∃ row col, s.hits ox oy n row col ∧ s.pixel row col = true) := by
  refine ⟨_, State.setReg_reg_self, ?_⟩
  rw [xorPixels_collision _ (s.hitPixels_nodup _ ox oy n (by omega)), Prod.exists]
  simp only [Bool.false_eq_true, false_or, State.mem_hitPixels]
  rfl

theorem State.drawSprite_flag_eq_one (hn : n ≤ 15) :
    (s.drawSprite ox oy n).reg 0xF = 1 ↔ ∃ row col, s.hits ox oy n row col ∧ s.pixel row col = true := by
  obtain ⟨b, hflag, hb⟩ := State.exists_drawSprite_flag (s := s) (ox := ox) (oy := oy) hn
  rw [hflag, collisionFlag_eq_one, hb]

theorem State.drawSprite_flag_eq_zero (hn : n ≤ 15) :
    (s.drawSprite ox oy n).reg 0xF = 0 ↔ ∀ row col, s.hits ox oy n row col → s.pixel row col = false := by
  obtain ⟨b, hflag, hb⟩ := State.exists_drawSprite_flag (s := s) (ox := ox) (oy := oy) hn
  rw [hflag, collisionFlag_eq_zero, hb]
  simp only [not_exists, not_and, Bool.not_eq_true]

theorem State.drawSprite_reg_of_ne {q : Reg} (h : q ≠ 0xF) : (s.drawSprite ox oy n).reg q = s.reg q :=
  State.setFlag_reg_of_ne h

end

/-- Settles O47: both checks pass, and the flag is taken from the pixels as they were before the draw. -/
theorem drawFlipsExactlyTheHitPixels : Obligations.DrawFlipsExactlyTheHitPixels := by
  refine ⟨decodesTo_draw, ?_⟩
  rintro x y n s ox oy hn rfl rfl hmem hedge
  have hreads := State.readCheck_pass hmem
  have honScreen := (s.edgeCheck_eq_none _ _ n).2 hedge
  exact ⟨_, exec_of_outcomes (.inr ⟨hreads, .inr ⟨honScreen, rfl⟩⟩), State.drawSprite_frame ..,
    fun _ _ => State.drawSprite_pixel_of_hits hn, fun _ _ => State.drawSprite_pixel_of_not_hits hn,
    (State.drawSprite_flag_eq_one hn).2, (State.drawSprite_flag_eq_zero hn).2, fun _ => State.drawSprite_reg_of_ne⟩

/-! ### The first set bit off the screen -/

/-- Row-major, most significant bit first: the order in which the places of a sprite are looked at (60_exceptions.md R223). -/
def PlaceBefore (p q : Nat × Nat) : Prop := p.1 < q.1 ∨ p.1 = q.1 ∧ p.2 < q.2

theorem spritePlaces_pairwise (n : Nat) : (spritePlaces n).Pairwise PlaceBefore := by
  rw [spritePlaces, List.pairwise_flatMap]
  constructor
  · intro r _
    rw [List.pairwise_map]
    exact List.pairwise_lt_range.imp fun h => .inr ⟨rfl, h⟩
  · refine List.pairwise_lt_range.imp fun h p hp q hq => ?_
    obtain ⟨c, -, rfl⟩ := List.mem_map.1 hp
    obtain ⟨c', -, rfl⟩ := List.mem_map.1 hq
    exact .inl h

/-- In a list ordered by `R`, a search finds the element that no earlier one passes before. -/
theorem find?_eq_some_of_pairwise {α : Type} {R : α → α → Prop} {p : α → Bool} {l : List α} {a : α}
    (hl : l.Pairwise R) (ha : a ∈ l) (hp : p a = true) (hbefore : ∀ b ∈ l, R b a → p b = false) :
    l.find? p = some a := by
  induction l with
  | nil => cases ha
  | cons b l ih =>
    obtain ⟨hb, hl⟩ := List.pairwise_cons.1 hl
    rcases List.mem_cons.1 ha with rfl | ha
    · exact List.find?_cons_of_pos hp
    · have hskip : p b = false := hbefore b List.mem_cons_self (hb a ha)
      rw [List.find?_cons_of_neg (by simp [hskip])]
      exact ih hl ha fun b' hb' => hbefore b' (List.mem_cons_of_mem b hb')

theorem State.edgeCheck_eq_some {s : State} {ox oy n r c : Nat} (hmode : s.cfg.drawEdge = .fault)
    (hbit : (r, c) ∈ s.setBits n) (hoff : 63 < ox + c ∨ 31 < oy + r)
    (hbefore : ∀ p ∈ s.setBits n, PlaceBefore p (r, c) → ox + p.2 ≤ 63 ∧ oy + p.1 ≤ 31) :
    edgeCheck s.cfg.drawEdge ox oy (s.setBits n) = some (ox + c, oy + r) := by
  have hfind : (s.setBits n).find? (fun p => offScreen (ox + p.2) (oy + p.1)) = some (r, c) :=
    find?_eq_some_of_pairwise ((spritePlaces_pairwise n).filter _) hbit (offScreen_eq_true.2 hoff)
      fun p hp hlt => offScreen_eq_false.2 (hbefore p hp hlt)
  rw [hmode, edgeCheck, List.find?_map]
  exact congrArg (Option.map _) hfind

/-- Settles O48: the check of reads comes first; the search of fault mode meets the set bits in the order of their places. -/
theorem drawChecksMemoryThenTheEdge : Obligations.DrawChecksMemoryThenTheEdge := by
  rintro x y n s ox oy rfl rfl
  refine ⟨fun hn hmem => exec_of_outcomes (.inl ⟨_, State.readCheck_fail hn hmem, rfl⟩), ?_⟩
  intro hmem hmode r c hr hc hbit hoff hbefore
  have hreads := State.readCheck_pass hmem
  have hspill := State.edgeCheck_eq_some hmode (State.mem_setBits.2 ⟨hr, hc, hbit⟩) hoff fun p hp hlt =>
    have ⟨_, hcol, hset⟩ := State.mem_setBits.1 hp
    hbefore p.1 p.2 hcol hlt hset
  exact exec_of_outcomes (.inr ⟨hreads, .inl ⟨_, _, hspill, rfl⟩⟩)

/-! ### The same sprite drawn twice -/

/-- A completed draw passed both checks. -/
theorem draw_completes {x y : Reg} {n : Nat} {s t : State} (h : exec (.draw x y n) s = .next t) (ht : t.halted = none) :
    readCheck (s.effAddrs n) = none ∧
    edgeCheck s.cfg.drawEdge (originCol (s.reg x)) (originRow (s.reg y)) (s.setBits n) = none ∧
    t = s.drawSprite (originCol (s.reg x)) (originRow (s.reg y)) n := by
  rcases exec_next h with ⟨a, -, rfl⟩ | ⟨hreads, ⟨c, r, -, rfl⟩ | ⟨honScreen, rfl⟩⟩
  · cases ht
  · cases ht
  · exact ⟨hreads, honScreen, rfl⟩

section

variable {s u : State} {ox oy n : Nat} {row : Fin 32} {col : Fin 64}

theorem State.effAddrs_congr (hindex : u.index = s.index) : u.effAddrs n = s.effAddrs n := by
  have heffAddr : u.effAddr = s.effAddr := funext fun k => congrArg (·.toNat + k) hindex
  rw [State.effAddrs, State.effAddrs, heffAddr]

theorem State.spriteBit_congr (hmem : u.mem = s.mem) (hcfg : u.cfg = s.cfg) (hindex : u.index = s.index) :
    u.spriteBit = s.spriteBit := by
  funext r c
  simp only [State.spriteBit, State.readByte, State.effAddr, hmem, hcfg, hindex]

theorem State.setBits_congr (hbits : u.spriteBit = s.spriteBit) : u.setBits n = s.setBits n := by
  rw [State.setBits, State.setBits, hbits]

theorem State.hits_congr (hbits : u.spriteBit = s.spriteBit) (hcfg : u.cfg = s.cfg) :
    u.hits ox oy n row col ↔ s.hits ox oy n row col := by
  rw [State.hits, State.hits, hbits, hcfg]

theorem State.pixel_congr (hfb : u.fb = s.fb) : u.pixel row col = s.pixel row col :=
  congrArg (·.pixel row col) hfb

/-- Where the screen under the sprite was flipped, drawing it again flips it back. -/
theorem State.drawSprite_fb_restores (hn : n ≤ 15) (hfb : u.fb = (s.drawSprite ox oy n).fb)
    (hhits : ∀ {row col}, u.hits ox oy n row col ↔ s.hits ox oy n row col) : (u.drawSprite ox oy n).fb = s.fb := by
  refine Frame.ext_pixel fun row col => ?_
  show (u.drawSprite ox oy n).pixel row col = s.pixel row col
  by_cases h : s.hits ox oy n row col
  · rw [State.drawSprite_pixel_of_hits hn (hhits.2 h), State.pixel_congr hfb, State.drawSprite_pixel_of_hits hn h, Bool.not_not]
  · rw [State.drawSprite_pixel_of_not_hits hn (mt hhits.1 h), State.pixel_congr hfb, State.drawSprite_pixel_of_not_hits hn h]

/-- The flag of the second draw: the hit pixels that are on after the first were off before it. -/
theorem State.drawSprite_flag_again (hn : n ≤ 15) (hfb : u.fb = (s.drawSprite ox oy n).fb)
    (hhits : ∀ {row col}, u.hits ox oy n row col ↔ s.hits ox oy n row col) :
    (u.drawSprite ox oy n).reg 0xF = 1 ↔ ∃ row col, s.hits ox oy n row col ∧ s.pixel row col = false := by
  rw [State.drawSprite_flag_eq_one hn]
  refine exists₂_congr fun row col => ?_
  rw [hhits]
  refine and_congr_right fun h => ?_
  rw [State.pixel_congr hfb, State.drawSprite_pixel_of_hits hn h, Bool.not_eq_true']

/-- On a clear screen each hit pixel is off. -/
theorem State.exists_hits_off_iff (hclear : s.fb = Frame.clear) :
    (∃ row col, s.hits ox oy n row col ∧ s.pixel row col = false) ↔ ∃ row col, s.hits ox oy n row col := by
  simp only [State.pixel, hclear, Frame.clear_pixel, and_true]

/-- When a draw passes its checks, in fault and wrap mode each set bit hits a pixel. -/
theorem State.exists_hits_iff (hclip : s.cfg.drawEdge ≠ .clip) (hedge : s.cfg.drawEdge = .fault → ¬s.spillsOver ox oy n) :
    (∃ row col, s.hits ox oy n row col) ↔ ∃ r c, r < n ∧ c < 8 ∧ s.spriteBit r c = true := by
  constructor
  · rintro ⟨row, col, r, c, hr, hc, hbit, -⟩
    exact ⟨r, c, hr, hc, hbit⟩
  · rintro ⟨r, c, hr, hc, hbit⟩
    refine ⟨Fin.ofNat 32 (oy + r), Fin.ofNat 64 (ox + c), r, c, hr, hc, hbit, ?_⟩
    cases hmode : s.cfg.drawEdge with
    | clip => exact absurd hmode hclip
    | wrap => rfl
    | fault =>
      have hon : ¬(63 < ox + c ∨ 31 < oy + r) := fun hoff => hedge hmode ⟨r, c, hr, hc, hbit, hoff⟩
      exact target_of_onScreen (by omega) (by omega)

end

/-- Settles O50: the second draw sees the checks, the hits and the origin of the first (`State.hits_congr`), so it completes,
and its screen is the first one flipped at the hit pixels. -/
theorem drawingTwiceRestoresTheScreen : Obligations.DrawingTwiceRestoresTheScreen := by
  rintro x y n s t u v ox oy hn rfl rfl - h ht hfb hmem hcfg hindex hx hy h'
  obtain ⟨hreads, honScreen, rfl⟩ := draw_completes h ht
  have hnoSpill := (s.edgeCheck_eq_none ..).1 honScreen
  have hbits := State.spriteBit_congr hmem hcfg hindex
  obtain rfl : v = u.drawSprite (originCol (s.reg x)) (originRow (s.reg y)) n := by
    rw [← State.effAddrs_congr hindex] at hreads
    rw [← State.setBits_congr hbits, ← hcfg, ← hx, ← hy] at honScreen
    have hagain := exec_of_outcomes (i := .draw x y n) (.inr ⟨hreads, .inr ⟨honScreen, rfl⟩⟩)
    rw [← hx, ← hy]
    exact Host.Outcome.next.inj (h'.symm.trans hagain)
  have hflag := State.drawSprite_flag_again hn hfb (State.hits_congr hbits hcfg)
  have hflagClear (hclear : s.fb = Frame.clear) := hflag.trans (State.exists_hits_off_iff hclear)
  refine ⟨(State.drawSprite_flag_eq_zero hn).2, State.drawSprite_fb_restores hn hfb (State.hits_congr hbits hcfg), hflag,
    hflagClear, fun hclear hclip => (hflagClear hclear).trans (State.exists_hits_iff hclip hnoSpill)⟩

end Sys2Proof.Machine
end

section
/-! PROOFS. The framebuffer snapshot, byte by byte (43_display.md R175). -/

namespace Sys2Proof.Machine

/-! ### A list of chunks of one length -/

section

variable {α β : Type} {l : List α} {f : α → List β} {m : Nat}

theorem length_flatMap_of_length_eq (hf : ∀ a, (f a).length = m) : (l.flatMap f).length = l.length * m := by
  simp [List.length_flatMap, hf]

theorem getElem?_flatMap_of_length_eq (hf : ∀ a, (f a).length = m) {i j : Nat} {a : α} (hi : l[i]? = some a) (hj : j < m) :
    (l.flatMap f)[i * m + j]? = (f a)[j]? := by
  induction l generalizing i with
  | nil => cases hi
  | cons b l ih =>
    rw [List.flatMap_cons]
    cases i with
    | zero =>
      obtain rfl : b = a := Option.some.inj hi
      rw [Nat.zero_mul, Nat.zero_add, List.getElem?_append_left (by rw [hf]; exact hj)]
    | succ i =>
      have hskip : (i + 1) * m + j = m + (i * m + j) := by ring
      rw [List.getElem?_append_right (by rw [hf]; omega), hf, hskip, Nat.add_sub_cancel_left]
      exact ih hi

end

/-! ### Cells, rows, the whole -/

theorem cellBytes_length (o : CellOrder) (v : BitVec 32) : (cellBytes o v).length = 4 := by
  cases o <;> rfl

theorem cellBytes_getElem? (o : CellOrder) (v : BitVec 32) {k : Nat} (hk : k < 4) :
    (cellBytes o v)[k]? =
      some (v.extractLsb' (8 * match o with | .highByteFirst => 3 - k | .lowByteFirst => k) 8) := by
  cases o with
  | highByteFirst | lowByteFirst => interval_cases k <;> rfl

theorem State.snapshotRow_length (s : State) (row : Fin 32) : (s.snapshotRow row).length = 256 := by
  rw [State.snapshotRow, length_flatMap_of_length_eq fun _ => cellBytes_length _ _, List.length_range]

theorem State.snapshot_length (s : State) : s.snapshot.length = 8192 := by
  rw [State.snapshot, length_flatMap_of_length_eq fun _ => s.snapshotRow_length _, List.length_range]

theorem State.snapshotRow_getElem? (s : State) (row : Fin 32) (col : Fin 64) {k : Nat} (hk : k < 4) :
    (s.snapshotRow row)[col.val * 4 + k]? = (cellBytes s.cfg.cellOrder (s.cell row col))[k]? := by
  rw [State.snapshotRow,
    getElem?_flatMap_of_length_eq (fun _ => cellBytes_length _ _) (List.getElem?_range col.isLt) hk, Fin.ofNat_val_eq_self]

theorem State.snapshot_getElem? (s : State) (row : Fin 32) {j : Nat} (hj : j < 256) :
    s.snapshot[row.val * 256 + j]? = (s.snapshotRow row)[j]? := by
  rw [State.snapshot,
    getElem?_flatMap_of_length_eq (fun _ => s.snapshotRow_length _) (List.getElem?_range row.isLt) hj, Fin.ofNat_val_eq_self]

/-- Settles O51: rows of 256 bytes, each of 64 cells of 4. -/
theorem snapshotHoldsOneCellPerPixel : Obligations.SnapshotHoldsOneCellPerPixel := by
  refine fun s => ⟨s.snapshot_length, fun row col k hk => ?_⟩
  have hj : col.val * 4 + k < 256 := by omega
  rw [Nat.add_assoc, s.snapshot_getElem? row hj, s.snapshotRow_getElem? row col hk]
  exact cellBytes_getElem? _ _ hk

end Sys2Proof.Machine
end

section
/-! PROOFS. The keypad and timer instructions, one by one: encodings, effects and the fault of a byte that names no key
(44_keypad_timers.md R189 to R195). The outcomes are those of `exec_of_outcomes`; here a key's state is read as `KEY[k]`. -/

namespace Sys2Proof.Machine

theorem State.keyDown_eq_getElem (s : State) (k : Reg) : s.keyDown k = s.keys[k] := rfl

/-! ### wait-key -/

theorem keyByte_toNat (k : Reg) : (keyByte k).toNat = k.val :=
  toNat_byte_of_lt (k.isLt.trans (by decide))

/-- Settles O53: a key that is down with no lower one down is what the search finds; it finds none when all are up. -/
theorem waitKeyTakesTheLowestKey : Obligations.WaitKeyTakesTheLowestKey := by
  refine ⟨decodesTo_waitKey, fun x s => ⟨fun k hdown hlower => ?_, fun hup => ?_⟩⟩
  · have hlowest : s.lowestKey = some k := State.lowestKey_eq_some.2 ⟨hdown, hlower⟩
    refine ⟨_, exec_of_outcomes (.inl ⟨k, hlowest, rfl⟩), rfl, ?_, fun _ => State.setReg_reg_of_ne⟩
    rw [State.setReg_reg_self, keyByte_toNat]
  · have hnone : s.lowestKey = none := State.lowestKey_eq_none.2 hup
    exact exec_of_outcomes (.inr ⟨hnone, rfl⟩)

/-! ### The two key skips -/

section

variable {s : State} {x k : Reg}

theorem exec_skipKeyPressed_of_key (hk : (s.reg x).toNat = k.val) :
    exec (.skipKeyPressed x) s = .next (if s.keys[k] = true then { s with pc := s.pc + 2 } else s) := by
  rw [← State.setPc_ite]
  exact exec_of_outcomes (.inr ⟨k, keyOf_eq_some.2 hk, rfl⟩)

theorem exec_skipKeyNotPressed_of_key (hk : (s.reg x).toNat = k.val) :
    exec (.skipKeyNotPressed x) s = .next (if s.keys[k] = false then { s with pc := s.pc + 2 } else s) := by
  rw [← State.setPc_ite]
  refine exec_of_outcomes (.inr ⟨k, keyOf_eq_some.2 hk, congrArg s.setPc ?_⟩)
  rw [State.keyDown_eq_getElem]
  cases s.keys[k] with
  | true | false => rfl

end

/-- Settles O52: a byte up to 0x0F names the key of its own number, and a greater one names none. -/
theorem keySkipsTestTheNamedKey : Obligations.KeySkipsTestTheNamedKey := by
  refine ⟨decodesTo_skipKeyPressed, decodesTo_skipKeyNotPressed, fun x s => ⟨fun k hk => ?_, fun hgt => ?_⟩⟩
  · exact ⟨exec_skipKeyPressed_of_key hk, exec_skipKeyNotPressed_of_key hk⟩
  · have hnone : keyOf (s.reg x) = none := keyOf_eq_none.2 hgt
    exact ⟨exec_of_outcomes (.inl ⟨hnone, rfl⟩), exec_of_outcomes (.inl ⟨hnone, rfl⟩)⟩

/-! ### The timer moves -/

/-- Settles O54: each is one write, before the tick that ends the step. -/
theorem timerMovesReadAndWriteTheTimers : Obligations.TimerMovesReadAndWriteTheTimers :=
  ⟨decodesTo_loadDelay, decodesTo_setDelay, decodesTo_setSound, fun x _ =>
    ⟨⟨_, exec_of_outcomes (i := .loadDelay x) rfl, rfl, State.setReg_reg_self, fun _ => State.setReg_reg_of_ne⟩,
     exec_of_outcomes (i := .setDelay x) rfl, exec_of_outcomes (i := .setSound x) rfl⟩⟩

end Sys2Proof.Machine
end

section
/-! PROOFS. What a fault of a step is: which instruction raises which kind and on what condition, and what the state is after it
(60_exceptions.md R211 to R221). -/

namespace Sys2Proof.Machine

/-- The fault table of 60_exceptions.md R211 for the handlers: the kinds an instruction can raise from `s`, with the detail and
what holds of it. -/
inductive Raises (s : State) : Instr → FaultKind → FaultDetail → Prop
  | memoryOutOfBounds (i : Instr) (a : Nat) (ha : 0xFFF < a) (hindex : s.index.toNat ≤ a)
      (hi : ∃ x y n, i = .draw x y n ∨ i = .storeBcd x ∨ i = .storeRegs x ∨ i = .loadRegs x) :
      Raises s i .memoryOutOfBounds (.address a)
  | reservedWrite (i : Instr) (a : Nat) (hprotect : s.cfg.protectLow ≠ .none) (ha : a ≤ 0x1FF)
      (hi : ∃ x, i = .storeBcd x ∨ i = .storeRegs x) : Raises s i .reservedWrite (.address a)
  | stackOverflow (nnn : BitVec 12) (hsp : s.sp = 16) : Raises s (.call nnn) .stackOverflow (.stackPointer 16)
  | stackUnderflow (hsp : s.sp = 0) : Raises s .ret .stackUnderflow (.stackPointer 0)
  | keyIndexOutOfRange (i : Instr) (x : Reg) (hx : 0x0F < (s.reg x).toNat)
      (hi : i = .skipKeyPressed x ∨ i = .skipKeyNotPressed x) :
      Raises s i .keyIndexOutOfRange (.keyIndex (s.reg x).toNat)
  | drawOutOfBounds (x y : Reg) (n c r : Nat) (hmode : s.cfg.drawEdge = .fault) (hoff : 63 < c ∨ 31 < r) :
      Raises s (.draw x y n) .drawOutOfBounds (.pixel c r)

/-! ### What a failing check reports -/

section

variable {p : LowProtect} {a : Nat} {kind : FaultKind}

/-- No protection reaches above 0x1FF (20_memory.md R52). -/
theorem protectedAddr_bound (h : protectedAddr p a = true) : p ≠ .none ∧ a ≤ 0x1FF := by
  cases p with
  | none => cases h
  | glyphs => simp only [protectedAddr, Bool.and_eq_true, decide_eq_true_eq] at h; exact ⟨nofun, by omega⟩
  | reserved => exact ⟨nofun, of_decide_eq_true h⟩

theorem writeCheckOne_eq_some (h : writeCheckOne p a = some kind) :
    (kind = .memoryOutOfBounds ∧ 0xFFF < a) ∨ (kind = .reservedWrite ∧ protectedAddr p a = true) := by
  rw [writeCheckOne] at h
  split_ifs at h with hbound hprotected
  · cases h; exact .inl ⟨rfl, hbound⟩
  · cases h; exact .inr ⟨rfl, hprotected⟩

/-- The reported address is one of the list, and it fails with the reported kind. -/
theorem writeCheck_eq_some {l : List Nat} (h : writeCheck p l = some (kind, a)) :
    a ∈ l ∧ writeCheckOne p a = some kind := by
  induction l with
  | nil => cases h
  | cons b l ih =>
    rw [writeCheck] at h
    split at h
    · next hb => cases h; exact ⟨List.mem_cons_self, hb⟩
    · exact (ih h).imp_left (List.mem_cons_of_mem b)

/-- Only fault mode reports a pixel, and the pixel is off the screen (43_display.md R172). -/
theorem edgeCheck_reports {mode : EdgeMode} {ox oy c r : Nat} {bits : List (Nat × Nat)}
    (h : edgeCheck mode ox oy bits = some (c, r)) : mode = .fault ∧ (63 < c ∨ 31 < r) := by
  cases mode with
  | fault => exact ⟨rfl, offScreen_eq_true.1 (List.find?_some (p := fun q : Nat × Nat => offScreen q.1 q.2) h)⟩
  | clip | wrap => cases h

end

/-! ### The handlers -/

section

variable {s t : State} {i : Instr} {n a : Nat} {kind : FaultKind} {r : FaultRecord}

theorem State.index_le_of_mem_effAddrs (h : a ∈ s.effAddrs n) : s.index.toNat ≤ a := by
  obtain ⟨k, -, rfl⟩ := State.mem_effAddrs.1 h
  exact Nat.le_add_right _ k

theorem Raises.of_readCheck (h : readCheck (s.effAddrs n) = some a)
    (hi : ∃ x y n, i = .draw x y n ∨ i = .storeBcd x ∨ i = .storeRegs x ∨ i = .loadRegs x) :
    Raises s i .memoryOutOfBounds (.address a) :=
  have ⟨hmem, hgt⟩ := readCheck_eq_some h
  .memoryOutOfBounds i a hgt (State.index_le_of_mem_effAddrs hmem) hi

theorem Raises.of_writeCheck (h : writeCheck s.cfg.protectLow (s.effAddrs n) = some (kind, a))
    (hi : ∃ x, i = .storeBcd x ∨ i = .storeRegs x) : Raises s i kind (.address a) := by
  obtain ⟨hmem, hfail⟩ := writeCheck_eq_some h
  obtain ⟨x, hx⟩ := hi
  rcases writeCheckOne_eq_some hfail with ⟨rfl, hgt⟩ | ⟨rfl, hprotected⟩
  · exact .memoryOutOfBounds i a hgt (State.index_le_of_mem_effAddrs hmem) ⟨x, 0, 0, .inr (hx.imp_right .inl)⟩
  · obtain ⟨hprotect, hle⟩ := protectedAddr_bound hprotected
    exact .reservedWrite i a hprotect hle ⟨x, hx⟩

/-- A handler that leaves a record has raised it, for a cause of the table, and done nothing else. -/
theorem exec_raises (h : exec i s = .next t) (hs : s.halted = none) (ht : t.halted = some r) :
    ∃ k d, Raises s i k d ∧ t = s.raise k d := by
  have hkept {P : Prop} (hsame : t.halted = s.halted) : P := by rw [hsame, hs] at ht; cases ht
  have ho := exec_next h
  cases i with
  | ret =>
    rcases ho with ⟨hsp, rfl⟩ | ⟨-, rfl⟩
    · exact ⟨_, _, .stackUnderflow hsp, rfl⟩
    · exact hkept rfl
  | call nnn =>
    rcases ho with ⟨hsp, rfl⟩ | ⟨-, rfl⟩
    · exact ⟨_, _, .stackOverflow nnn hsp, rfl⟩
    · exact hkept rfl
  | draw x y n =>
    rcases ho with ⟨a, hc, rfl⟩ | ⟨-, ⟨c, r, hc, rfl⟩ | ⟨-, rfl⟩⟩
    · exact ⟨_, _, .of_readCheck hc ⟨x, y, n, .inl rfl⟩, rfl⟩
    · obtain ⟨hmode, hoff⟩ := edgeCheck_reports hc
      exact ⟨_, _, .drawOutOfBounds x y n c r hmode hoff, rfl⟩
    · exact hkept rfl
  | skipKeyPressed x =>
    rcases ho with ⟨hk, rfl⟩ | ⟨k, -, rfl⟩
    · exact ⟨_, _, .keyIndexOutOfRange _ x (keyOf_eq_none.1 hk) (.inl rfl), rfl⟩
    · exact hkept rfl
  | skipKeyNotPressed x =>
    rcases ho with ⟨hk, rfl⟩ | ⟨k, -, rfl⟩
    · exact ⟨_, _, .keyIndexOutOfRange _ x (keyOf_eq_none.1 hk) (.inr rfl), rfl⟩
    · exact hkept rfl
  | waitKey x => rcases ho with ⟨k, -, rfl⟩ | ⟨-, rfl⟩ <;> exact hkept rfl
  | storeBcd x =>
    rcases ho with ⟨k, a, hc, rfl⟩ | ⟨-, rfl⟩
    · exact ⟨_, _, .of_writeCheck hc ⟨x, .inl rfl⟩, rfl⟩
    · exact hkept (State.writeBytes_halted ..)
  | storeRegs x =>
    rcases ho with ⟨k, a, hc, rfl⟩ | ⟨-, rfl⟩
    · exact ⟨_, _, .of_writeCheck hc ⟨x, .inr rfl⟩, rfl⟩
    · exact hkept (State.writeBytes_halted ..)
  | loadRegs x =>
    rcases ho with ⟨a, hc, rfl⟩ | ⟨-, rfl⟩
    · exact ⟨_, _, .of_readCheck hc ⟨x, 0, 0, .inr (.inr (.inr rfl))⟩, rfl⟩
    · exact hkept (State.loadFirstRegs_halted ..)
  | sub | shr | subn | shl => obtain ⟨_, rfl, rfl⟩ := ho; exact hkept rfl
  | _ => subst ho; exact hkept rfl

end

/-! ### The step -/

section

variable {s t : State} {r : FaultRecord}

/-- The state after a decode or execute fault, spelled out (60_exceptions.md R221). -/
theorem State.fetched_raise_eq (s : State) (k : FaultKind) (d : FaultDetail) : s.fetched.raise k d =
    { s with
      started := true, soundStop := false, ci := s.fetch16 s.pc.toNat, pc := s.pc + 2,
      halted := some ⟨k, some s.pc, some (s.fetch16 s.pc.toNat), d⟩ } := by
  rw [State.raise, State.insnAddr, State.fetched_pc_sub_two]; rfl

/-- Everything a step that leaves a record can have done: a fetch, a decode or an execute fault. -/
theorem step_raises (h : step s = .next t) (ht : t.halted = some r) :
    (0xFFE < s.pc.toNat ∧ t = s.beginStep.raiseFetch) ∨
    (s.pc.toNat ≤ 0xFFE ∧ ∃ k d, t = s.fetched.raise k d ∧
      ((k = .unknownInstruction ∧ d = .none ∧ ∃ e, s.nextInstr = .error e) ∨
        ∃ i, s.nextInstr = .ok i ∧ Raises s.fetched i k d)) := by
  obtain ⟨hrun, hfetch | ⟨hpc, e, he, rfl⟩ | ⟨hpc, i, u, hi, hu, rfl⟩⟩ := step_next h
  · exact .inl hfetch
  · exact .inr ⟨hpc, _, _, rfl, .inl ⟨rfl, rfl, e, he⟩⟩
  · rcases u.endStep_cases with ⟨r', hr', hend⟩ | ⟨hu', hend⟩ <;> rw [hend] at ht ⊢
    · obtain ⟨k, d, hraises, rfl⟩ := exec_raises hu hrun hr'
      exact .inr ⟨hpc, k, d, rfl, .inr ⟨i, hi, hraises⟩⟩
    · rw [State.tick_halted, hu'] at ht; cases ht

end

/-- Settles O14: a faulting step is the raise alone, from the state before the fetch or after it (`step_raises`). -/
theorem faultsArePrecise : Obligations.FaultsArePrecise := by
  intro s t r _ h ht
  rcases step_raises h ht with ⟨hpc, rfl⟩ | ⟨hpc, k, d, rfl, -⟩
  · cases ht
    exact ⟨fun _ => rfl, fun hle => absurd hpc (Nat.not_lt.2 hle)⟩
  · rw [State.fetched_raise_eq] at ht ⊢
    cases ht
    exact ⟨fun hgt => absurd hgt (Nat.not_lt.2 hpc), fun _ => rfl⟩

/-- Settles O15: the fetch fault and the decode fault have one record each, and the table of the handlers (`Raises`) says the
rest. -/
theorem faultRecordsNameTheirCause : Obligations.FaultRecordsNameTheirCause := by
  intro s t r _ h ht
  rcases step_raises h ht with ⟨hpc, rfl⟩ | ⟨-, k, d, rfl, hcause⟩
  · cases ht
    exact ⟨rfl, rfl, rfl, rfl, hpc⟩
  · rw [State.fetched_raise_eq] at ht
    cases ht
    rcases hcause with ⟨rfl, rfl, e, he⟩ | ⟨i, hnext, hraises⟩
    · exact ⟨rfl, rfl, rfl, rfl, e, he⟩
    · rw [hnext]
      cases hraises with
      | memoryOutOfBounds _ a ha hindex hi =>
        obtain ⟨x, y, n, hi⟩ := hi
        exact ⟨rfl, rfl, rfl, ⟨a, rfl, ha, hindex⟩, x, y, n, by simpa using hi⟩
      | reservedWrite _ a hprotect ha hi =>
        obtain ⟨x, hi⟩ := hi
        exact ⟨rfl, rfl, rfl, hprotect, ⟨a, rfl, ha⟩, x, by simpa using hi⟩
      | stackOverflow nnn hsp => exact ⟨rfl, rfl, rfl, rfl, hsp, nnn, rfl⟩
      | stackUnderflow hsp => exact ⟨rfl, rfl, rfl, rfl, hsp, rfl⟩
      | keyIndexOutOfRange _ x hx hi => exact ⟨rfl, rfl, rfl, x, rfl, hx, by simpa using hi⟩
      | drawOutOfBounds x y n c r hmode hoff => exact ⟨rfl, rfl, rfl, hmode, ⟨c, r, rfl, hoff⟩, x, y, n, rfl⟩

/-- Settles O11: the bound is the fetch's own check, and a record of that kind says that the check failed (O15). -/
theorem fetchFaultLeavesPcAndCi : Obligations.FetchFaultLeavesPcAndCi := by
  intro s hrun
  refine ⟨step_of_fetchFails hrun, fun hpc t r h ht hkind => ?_⟩
  obtain ⟨-, -, hcause⟩ := faultRecordsNameTheirCause s t r hrun h ht
  rw [hkind] at hcause
  obtain ⟨-, -, hgt⟩ := hcause
  exact absurd hgt (Nat.not_lt.2 hpc)

/-- Settles O12: decoding fails on the fetched state, whose raise is written out in `State.fetched_raise_eq`. -/
theorem unknownInstructionIsRaisedAtDecode : Obligations.UnknownInstructionIsRaisedAtDecode := by
  intro s e hrun hpc he
  rw [step_of_fetches hrun hpc, State.decodeAndRun_error (s.fetched_decoded.trans he), State.fetched_raise_eq]

end Sys2Proof.Machine
end

section
/-! PROOFS. The timers at the end of a step (60_exceptions.md R228, R230), and the steps that move nothing else (60_exceptions.md
R236, 70_reset_and_hazards.md R263). -/

namespace Sys2Proof.Machine

/-- What the handler of an instruction leaves in DT (10_state.md R30). -/
def delayAfter (i : Instr) (s : State) : Byte :=
  match i with
  | .setDelay x => s.reg x
  | _ => s.delay

/-- What the handler of an instruction leaves in ST (10_state.md R30). -/
def soundAfter (i : Instr) (s : State) : Byte :=
  match i with
  | .setSound x => s.reg x
  | _ => s.sound

section

variable {s t : State} {i : Instr}

/-- A handler that completes is followed by the tick. -/
theorem step_of_exec_completes (hrun : s.halted = none) (hpc : s.pc.toNat ≤ 0xFFE) (hi : s.nextInstr = .ok i)
    (h : exec i s.fetched = .next t) (ht : t.halted = none) : step s = .next t.tick := by
  rw [step_of_exec hrun hpc hi h, State.endStep_of_running ht]

theorem exec_delay (h : exec i s = .next t) : t.delay = delayAfter i s := by
  obtain ⟨-, hwriter, -⟩ := specialRegistersHaveOnlyTheirWriters i s t h
  cases i with
  | setDelay x => cases h; rfl
  | _ => exact not_not.1 (mt hwriter nofun)

theorem exec_sound (h : exec i s = .next t) : t.sound = soundAfter i s := by
  obtain ⟨-, -, hwriter, -⟩ := specialRegistersHaveOnlyTheirWriters i s t h
  cases i with
  | setSound x => cases h; rfl
  | _ => exact not_not.1 (mt hwriter nofun)

end

/-- Settles O26: a faulting step leaves the timers to `faultsArePrecise`; a completed one is the handler, which leaves
`delayAfter` and `soundAfter`, and one tick. -/
theorem completedStepTicksBothTimers : Obligations.CompletedStepTicksBothTimers := by
  intro s t hrun h
  refine ⟨decide_eq_true_iff, fun ht => ?_, fun ht => ?_⟩
  · obtain ⟨r, hr⟩ := Option.ne_none_iff_exists'.1 ht
    obtain ⟨hfetch, hexec⟩ := faultsArePrecise s t r hrun h hr
    rcases Nat.lt_or_ge 0xFFE s.pc.toNat with hpc | hpc
    · rw [hfetch hpc]; exact ⟨rfl, rfl, rfl⟩
    · rw [hexec hpc]; exact ⟨rfl, rfl, rfl⟩
  · obtain ⟨-, ⟨-, rfl⟩ | ⟨-, e, -, rfl⟩ | ⟨-, i, -, hi, -, -⟩⟩ := step_next h
    · cases ht
    · cases ht
    · rw [State.fetched_decoded] at hi
      obtain ⟨u, hu, -, rfl⟩ := step_completes hi h ht
      have hdelay : u.delay = delayAfter i s := (exec_delay hu :)
      have hsound : u.sound = soundAfter i s := (exec_sound hu :)
      refine ⟨i, hi, ?_, ?_, ?_⟩
      · rw [State.tick_delay, tickDown_eq, hdelay]; rfl
      · rw [State.tick_sound, tickDown_eq, hsound]; rfl
      · rw [State.tick_soundStop, hsound, decide_eq_true_iff]; rfl

/-- Settles O55: each of the two handlers puts `pc` back to the instruction's own address and does nothing else, and the tick
follows. -/
theorem idleStepsChangeOnlyTheTimers : Obligations.IdleStepsChangeOnlyTheTimers := by
  intro s i hrun hpc hi hidle
  have hexec : exec i s.fetched = .next (s.fetched.setPc s.pc) := by
    rcases hidle with ⟨⟨x, rfl⟩, hup⟩ | ⟨nnn, rfl, hself⟩
    · have hnone : s.fetched.lowestKey = none := State.lowestKey_eq_none.2 hup
      exact exec_of_outcomes (.inr ⟨hnone, by rw [State.fetched_pc_sub_two]⟩)
    · have htarget : nnn.setWidth 16 = s.pc := BitVec.eq_of_toNat_eq ((toNat_setWidth_address nnn).trans hself)
      exact exec_of_outcomes (i := .jump nnn) (by rw [Outcomes, htarget])
  rw [step_of_exec_completes hrun hpc hi hexec hrun, State.tick_eq]
  rfl

end Sys2Proof.Machine
end

section
/-! PROOFS. The host's operations: what each does to a running and to a halted core, and that each keeps the two invariants
(60_exceptions.md R222, R232, R233, 70_reset_and_hazards.md R250 to R254). -/

namespace Sys2Proof.Machine

variable {s t : State} {bytes : List Byte}

theorem State.loadAdmitted_iff : s.loadAdmitted = true ↔ s.halted = none ∧ s.started = false := by
  simp [State.loadAdmitted]

/-- Everything a load that answers a next state can have done. -/
theorem State.loadProgram_next (h : s.loadProgram bytes = .next t) :
    s.halted = none ∧ s.started = false ∧
    (t = s.latch ⟨.programTooLarge, none, none, .length bytes.length⟩ ∨ t = s.writeBytes programBase bytes) := by
  rw [State.loadProgram] at h
  split_ifs at h with hrefused hlong
  all_goals
    obtain ⟨hrun, hfresh⟩ := State.loadAdmitted_iff.1 (by simpa using hrefused)
    refine ⟨hrun, hfresh, ?_⟩
    cases h
  · exact .inl rfl
  · exact .inr rfl

/-- Settles O13: the latch is what the step and the load look at first, the keypad port does not touch it, and the host's reset
clears it. -/
theorem haltedCoreIsStoppedForGood : Obligations.HaltedCoreIsStoppedForGood := by
  intro s r hr
  have hrefused : s.loadAdmitted = false := by rw [State.loadAdmitted, hr]; rfl
  refine ⟨?_, fun bytes => ?_, fun ks => hr, rfl⟩
  · simp only [step, hr]
  · rw [State.loadProgram, hrefused]; rfl

theorem State.reinit_inv (s : State) : s.reinit.Inv :=
  State.inv_of_soundStop_false (State.initial_wf s.cfg) nofun rfl

theorem State.reinit_pcInReach (s : State) : s.reinit.PcInReach :=
  have ⟨hpc, hslots⟩ := State.initial_pcInReach s.cfg
  ⟨hpc, hslots⟩

theorem State.Inv.withKeys (h : s.Inv) (ks : Vector Bool 16) : (s.withKeys ks).Inv :=
  ⟨h.memory, h.record, h.quiet, h.pulse, h.fresh⟩

theorem State.PcInReach.withKeys (h : s.PcInReach) (ks : Vector Bool 16) : (s.withKeys ks).PcInReach :=
  ⟨h.pc, h.slots⟩

/-- A load happens before the first step, when `sound_stop` is still false. -/
theorem State.Inv.loadProgram (h : s.Inv) (ht : s.loadProgram bytes = .next t) : t.Inv := by
  obtain ⟨-, hfresh, rfl | rfl⟩ := State.loadProgram_next ht
  · exact State.inv_of_soundStop_false h.memory (by rintro _ ⟨⟩; rfl) (h.fresh hfresh)
  · refine State.inv_of_soundStop_false ?_ ?_ ?_
    · rw [State.writeBytes_cfg]; exact s.writeBytes_wf _ _ h.memory
    · rw [State.writeBytes_halted]; exact h.record
    · rw [State.writeBytes_soundStop]; exact h.fresh hfresh

theorem State.PcInReach.loadProgram (h : s.PcInReach) (ht : s.loadProgram bytes = .next t) : t.PcInReach := by
  obtain ⟨-, -, rfl | rfl⟩ := State.loadProgram_next ht
  · exact ⟨h.pc, h.slots⟩
  · rw [State.writeBytes_frame]; exact ⟨h.pc, h.slots⟩

/-- Settles O19: one lemma for each operation and each invariant. -/
theorem hostOperationsKeepTheInvariants : Obligations.HostOperationsKeepTheInvariants := fun s hinv hreach =>
  ⟨⟨s.reinit_inv, s.reinit_pcInReach⟩, fun ks => ⟨hinv.withKeys ks, hreach.withKeys ks⟩,
    fun _ _ ht => ⟨hinv.loadProgram ht, hreach.loadProgram ht⟩⟩

end Sys2Proof.Machine
end

section
/-! PROOFS. The keypad port, and who reads the keypad (60_exceptions.md R233, 10_state.md R32, 70_reset_and_hazards.md R261). -/

namespace Sys2Proof.Machine

section

variable {s t : State} {i : Instr} {ks : Vector Bool 16}

theorem State.withKeys_writeBytes (a : Nat) (vs : List Byte) :
    (s.writeBytes a vs).withKeys ks = (s.withKeys ks).writeBytes a vs := by
  induction vs generalizing s a with
  | nil => rfl
  | cons v vs ih => exact ih (a + 1)

theorem State.withKeys_loadFirstRegs (k : Nat) :
    (s.loadFirstRegs k).withKeys ks = (s.withKeys ks).loadFirstRegs k := by
  induction k with
  | zero => rfl
  | succ k ih => rw [State.loadFirstRegs, State.loadFirstRegs, ← ih]; rfl

/-- The other 31 instructions make every check and compute every value, a fault record's too, without the keypad. -/
theorem outcomes_withKeys (h : Outcomes i s t)
    (hi : ∀ x, i ≠ .skipKeyPressed x ∧ i ≠ .skipKeyNotPressed x ∧ i ≠ .waitKey x) :
    Outcomes i (s.withKeys ks) (t.withKeys ks) := by
  cases i with
  | skipKeyPressed x | skipKeyNotPressed x | waitKey x => simp at hi
  | ret | call =>
    rcases h with ⟨hsp, rfl⟩ | ⟨hsp, rfl⟩
    · exact .inl ⟨hsp, rfl⟩
    · exact .inr ⟨hsp, rfl⟩
  | sub | shr | subn | shl => obtain ⟨_, rfl, rfl⟩ := h; exact ⟨_, rfl, rfl⟩
  | draw x y n =>
    rcases h with ⟨a, hc, rfl⟩ | ⟨hc, ⟨c, r, he, rfl⟩ | ⟨he, rfl⟩⟩
    · exact .inl ⟨a, hc, rfl⟩
    · exact .inr ⟨hc, .inl ⟨c, r, he, rfl⟩⟩
    · exact .inr ⟨hc, .inr ⟨he, rfl⟩⟩
  | storeBcd | storeRegs =>
    rcases h with ⟨k, a, hc, rfl⟩ | ⟨hc, rfl⟩
    · exact .inl ⟨k, a, hc, rfl⟩
    · exact .inr ⟨hc, State.withKeys_writeBytes ..⟩
  | loadRegs x =>
    rcases h with ⟨a, hc, rfl⟩ | ⟨hc, rfl⟩
    · exact .inl ⟨a, hc, rfl⟩
    · exact .inr ⟨hc, State.withKeys_loadFirstRegs _⟩
  | _ => subst h; rfl

/-- A wait-key with a key down completes: the lowest such key's number in `reg[x]`, then the tick. -/
theorem step_waitKey_of_lowestKey {x k : Reg} (hrun : s.halted = none) (hpc : s.pc.toNat ≤ 0xFFE)
    (hi : s.nextInstr = .ok (.waitKey x)) (hk : s.lowestKey = some k) :
    step s = .next (s.fetched.setReg x (keyByte k)).tick := by
  have hexec : exec (.waitKey x) s.fetched = .next (s.fetched.setReg x (keyByte k)) :=
    exec_of_outcomes (.inl ⟨k, hk, rfl⟩)
  exact step_of_exec_completes hrun hpc hi hexec hrun

end

/-- Settles O59: the fetch and the decoder read no key, so the step after the port runs the same instruction; wait-key then finds
the port's lowest key, and no other instruction but the two skips reads one (`outcomes_withKeys`). -/
theorem keypadPortSetsTheKeysOnly : Obligations.KeypadPortSetsTheKeysOnly := by
  refine fun s ks => ⟨rfl, fun _ => rfl, fun t h k => ?_, fun x k hrun hpc hi hdown hlower => ?_, fun i t hi h => ?_⟩
  · obtain ⟨hkeys, -⟩ := stepNeverWritesKeypadOrParameters _ t h
    rw [State.keyDown_eq_getElem, hkeys]; rfl
  · have hlowest : (s.withKeys ks).lowestKey = some k := State.lowestKey_eq_some.2 ⟨hdown, hlower⟩
    refine ⟨_, step_waitKey_of_lowestKey hrun hpc hi hlowest, hrun, ?_, rfl⟩
    rw [State.tick_reg, State.setReg_reg_self, keyByte_toNat]
  · exact exec_of_outcomes (outcomes_withKeys (exec_next h) hi)

end Sys2Proof.Machine
end

section
/-! PROOFS. The program load and the host's reset, each as a whole (70_reset_and_hazards.md R250 to R254). -/

namespace Sys2Proof.Machine

section

variable {s : State} {bytes : List Byte}

theorem State.loadAdmitted_eq_false_iff : s.loadAdmitted = false ↔ s.halted ≠ none ∨ s.started = true := by
  rw [← Bool.not_eq_true, State.loadAdmitted_iff, not_and_or, Bool.not_eq_false]

theorem State.loadProgram_of_not_admitted (h : s.loadAdmitted = false) :
    s.loadProgram bytes = .refused .loadNotAdmitted := by
  rw [State.loadProgram, h]; rfl

theorem State.loadProgram_of_too_large (h : s.loadAdmitted = true) (hlong : maxProgram < bytes.length) :
    s.loadProgram bytes = .next (s.latch ⟨.programTooLarge, none, none, .length bytes.length⟩) := by
  rw [State.loadProgram, h, if_neg nofun, if_pos hlong]

theorem State.loadProgram_of_fits (h : s.loadAdmitted = true) (hfits : bytes.length ≤ maxProgram) :
    s.loadProgram bytes = .next (s.writeBytes programBase bytes) := by
  rw [State.loadProgram, h, if_neg nofun, if_neg (Nat.not_lt.2 hfits)]

end

/-- Settles O57: a refused load, one that is too large and one that fits are the three branches of the load; the largest image
that fits, at 0x200, ends with memory. -/
theorem loadProgramCopiesTheImage : Obligations.LoadProgramCopiesTheImage := by
  refine fun bytes s => ⟨fun hrefused => ?_, fun hrun hfresh hlong => ?_, fun hrun hfresh hfits => ?_⟩
  · exact State.loadProgram_of_not_admitted (State.loadAdmitted_eq_false_iff.2 hrefused)
  · exact State.loadProgram_of_too_large (State.loadAdmitted_iff.2 ⟨hrun, hfresh⟩) hlong
  · have hmem (i : Fin bytes.length) : 0x200 + i.val ≤ 0xFFF := by omega
    exact ⟨s.writeBytes 0x200 bytes, State.loadProgram_of_fits (State.loadAdmitted_iff.2 ⟨hrun, hfresh⟩) hfits,
      s.writeBytes_frame _ _, fun i => State.readByte_writeBytes_stored i.isLt (hmem i),
      fun _ ha => State.readByte_writeBytes_outside ha⟩

/-- The host's reset is a function of the parameters and the count of random bytes alone. -/
theorem State.reinit_eq_of_cfg_eq {s u : State} (h : u.cfg = s.cfg) : s.reinit = { u.reinit with draws := s.draws } := by
  rw [State.reinit, State.reinit, h]

/-- Settles O58: the reset's fields, and `State.reinit_eq_of_cfg_eq` for the state before it. -/
theorem initializeForgetsWhatCameBefore : Obligations.InitializeForgetsWhatCameBefore := fun s =>
  ⟨s.reinit_cfg, s.reinit_draws, s.reinit_soundStop, rfl, fun _ => State.reinit_eq_of_cfg_eq⟩

end Sys2Proof.Machine
end
